-- ==== Sys2Proof/Word.lean ====
section
/-! DEFINITION. The word types of the block (00_scope R8, R9): bytes, command words, the 64-bit operand and response, and durations. -/

namespace Sys2Proof

/-- A `u8`: one record byte, or one operand field of the command word (R9, R70). -/
abbrev Byte := BitVec 8

/-- A `u16`: REPEAT, NBITS, DEC_BITS (R26, R70). -/
abbrev Half := BitVec 16

/-- A 32-bit command word CW (R70). -/
abbrev Word := BitVec 32

/-- A 64-bit DIN or RSP_VAL (R70, R73). -/
abbrev DWord := BitVec 64

/-- A duration in microseconds. D7 makes durations naturals; the width DUR_W is a field of `Config`,
and no duration is cut to it (DESIGN CHOICE, log 10). -/
abbrev Duration := Nat

end Sys2Proof
end

