-- ==== Sys2Proof/Machine/Record.lean ====
section
/-! DEFINITION. The 8-byte command record (10_state R20), its bytes and bits, the field table of R21, and the packing of a record into 64 bits (20_memory R52). -/

namespace Sys2Proof

/-- An array of exactly `REC_LEN` = 8 bytes (R20). REC, DEC_REC, RESET_IMAGE and the operand of form RAW are records. -/
structure Record where
  b0 : Byte
  b1 : Byte
  b2 : Byte
  b3 : Byte
  b4 : Byte
  b5 : Byte
  b6 : Byte
  b7 : Byte
  deriving DecidableEq, Repr, Inhabited

/-- A field of the record: the `w` bits from bit `lo` of one byte (R21). -/
structure RecField (w : Nat) where
  byte : Fin 8
  lo : Nat
  deriving DecidableEq, Repr

/-- `REC[i]` (R10). -/
def Record.byte (r : Record) (i : Fin 8) : Byte :=
  match i with
  | 0 => r.b0
  | 1 => r.b1
  | 2 => r.b2
  | 3 => r.b3
  | 4 => r.b4
  | 5 => r.b5
  | 6 => r.b6
  | 7 => r.b7

/-- `REC[i] <- v` (R10). -/
def Record.setByte (r : Record) (i : Fin 8) (v : Byte) : Record :=
  match i with
  | 0 => { r with b0 := v }
  | 1 => { r with b1 := v }
  | 2 => { r with b2 := v }
  | 3 => { r with b3 := v }
  | 4 => { r with b4 := v }
  | 5 => { r with b5 := v }
  | 6 => { r with b6 := v }
  | 7 => { r with b7 := v }

/-- `REC[i][j]`: bit `j` of byte `i`, bit 0 the least significant (R8). -/
def Record.bit (r : Record) (i : Fin 8) (j : Nat) : Bool := (r.byte i).getLsbD j

/-- `b` with its bits `[lo+w-1:lo]` replaced by `v` and the others kept (R10). -/
def putBits {w : Nat} (b : Byte) (lo : Nat) (v : BitVec w) : Byte :=
  (b &&& ~~~((BitVec.allOnes w).setWidth 8 <<< lo)) ||| (v.setWidth 8 <<< lo)

/-- `REC[k][hi:lo]` as an unsigned number of the field's width (R8). -/
def Record.get {w : Nat} (r : Record) (f : RecField w) : BitVec w :=
  (r.byte f.byte).extractLsb' f.lo w

/-- `REC[k][hi:lo] <- v`: writes only those bits and keeps the others (R10). -/
def Record.put {w : Nat} (r : Record) (f : RecField w) (v : BitVec w) : Record :=
  r.setByte f.byte (putBits (r.byte f.byte) f.lo v)

/-- Mode, `REC[0][2:0]` (R21). -/
abbrev RecField.mode : RecField 3 := ⟨0, 0⟩
/-- Power (low), `REC[0][3]` (R21, R24). -/
abbrev RecField.powerLow : RecField 1 := ⟨0, 3⟩
/-- Fan speed, `REC[0][5:4]` (R21). -/
abbrev RecField.fan : RecField 2 := ⟨0, 4⟩
/-- Swing-vertical auto flag, `REC[0][6]` (R21). -/
abbrev RecField.swingAuto : RecField 1 := ⟨0, 6⟩
/-- Sleep, `REC[0][7]` (R21). -/
abbrev RecField.sleep : RecField 1 := ⟨0, 7⟩
/-- Temperature code, `REC[1][3:0]` (R21). -/
abbrev RecField.temp : RecField 4 := ⟨1, 0⟩
/-- Power (high), `REC[2][3]` (R21, R24). -/
abbrev RecField.powerHigh : RecField 1 := ⟨2, 3⟩
/-- Turbo, `REC[2][4]` (R21). -/
abbrev RecField.turbo : RecField 1 := ⟨2, 4⟩
/-- Light, `REC[2][5]` (R21). -/
abbrev RecField.light : RecField 1 := ⟨2, 5⟩
/-- XFan (clean), `REC[2][7]` (R21). -/
abbrev RecField.xfan : RecField 1 := ⟨2, 7⟩
/-- Swing-vertical position, `REC[4][3:0]` (R21). -/
abbrev RecField.swingPos : RecField 4 := ⟨4, 0⟩
/-- Checksum nibble, `REC[7][7:4]` (R21, R23). -/
abbrev RecField.checksum : RecField 4 := ⟨7, 4⟩

/-- The bits no field of R21 names (R22), as (byte, lowest bit, highest bit). -/
def uninterpretedRanges : List (Fin 8 × Nat × Nat) :=
  [(1, 4, 7), (2, 0, 2), (2, 6, 6), (3, 0, 7), (4, 4, 7), (5, 0, 7), (6, 0, 7), (7, 0, 3)]

/-- Whether bit `j` of byte `i` is an uninterpreted bit (R22). -/
def uninterpreted (i : Fin 8) (j : Nat) : Bool :=
  uninterpretedRanges.any fun u => u.1 == i && decide (u.2.1 ≤ j) && decide (j ≤ u.2.2)

/-- The record as a 64-bit value, byte `i` at bits `[8i+7:8i]` (R52). -/
def Record.pack (r : Record) : DWord :=
  r.b7 ++ r.b6 ++ r.b5 ++ r.b4 ++ r.b3 ++ r.b2 ++ r.b1 ++ r.b0

/-- The record a 64-bit value holds: `D[i] = DIN[8i+7:8i]` (R52, R72). -/
def unpack (d : DWord) : Record where
  b0 := d.extractLsb' 0 8
  b1 := d.extractLsb' 8 8
  b2 := d.extractLsb' 16 8
  b3 := d.extractLsb' 24 8
  b4 := d.extractLsb' 32 8
  b5 := d.extractLsb' 40 8
  b6 := d.extractLsb' 48 8
  b7 := d.extractLsb' 56 8

end Sys2Proof
end

