-- ==== Sys2Proof/Config.lean ====
section
/-! DEFINITION. The implementation parameters of 00_scope R6, as one structure of plain data that a block instance carries unchanged for its life (R33), and the opaque constants: the matchers and checksum bodies of instances outside the defaults, and the free values. Their values at the defaults are in Machine/Params.lean, their meanings in Machine/Matchers.lean and Machine/Checksum.lean. -/

namespace Sys2Proof

/-- Which duration predicates the instance has (R190). `ref` is REF_MATCH (R192); `impl n` is any other
policy of an integrator, about which nothing is known but that it is a function of its arguments (M5). -/
inductive MatcherPolicy where
  | ref
  | impl (n : Nat)
  deriving DecidableEq, Repr

/-- Which checksum body the instance has (R150). `ref` is REF_CSUM (R151); `impl n` is any other body,
about which nothing is known but the contract C1 to C3. -/
inductive ChecksumBody where
  | ref
  | impl (n : Nat)
  deriving DecidableEq, Repr

/-- The parameters of R6 that R6, D7, D8, D10, D12, D19, D20, D23 or D24 leave open. -/
structure Config where
  /-- T_HDR_MARK -/
  tHdrMark : Duration
  /-- T_HDR_SPACE -/
  tHdrSpace : Duration
  /-- T_BIT_MARK -/
  tBitMark : Duration
  /-- T_ONE_SPACE -/
  tOneSpace : Duration
  /-- T_ZERO_SPACE -/
  tZeroSpace : Duration
  /-- T_GAP -/
  tGap : Duration
  /-- T_MSG -/
  tMsg : Duration
  /-- MatchMark, MatchSpace, MatchAtLeast -/
  matcher : MatcherPolicy
  /-- CHECKSUM_FN -/
  checksum : ChecksumBody
  /-- RESET_IMAGE -/
  resetImage : Record
  /-- SWING_AUTO_SET; a code has 4 bits, so each is below 16 as D24 asks -/
  swingAutoSet : List (BitVec 4)
  /-- SWING_AUTO_CODE -/
  swingAutoCode : BitVec 4
  /-- SWING_MANUAL_SET -/
  swingManualSet : List (BitVec 4)
  /-- SWING_LASTPOS_CODE -/
  swingLastPosCode : BitVec 4
  /-- SUBST_AUTO_LOCKS_TEMP -/
  substAutoLocksTemp : Bool
  /-- DUR_W -/
  durW : Nat
  /-- RX_MAX -/
  rxMax : Nat
  deriving DecidableEq, Repr

/-- MatchMark of the instances outside the default, by policy number: open (R190, D10; DESIGN CHOICE, log 1). -/
opaque Config.implMatchMark : Nat → Duration → Duration → Bool

/-- MatchSpace of the instances outside the default, by policy number: open (R190, D10; DESIGN CHOICE, log 1). -/
opaque Config.implMatchSpace : Nat → Duration → Duration → Bool

/-- MatchAtLeast of the instances outside the default, by policy number: open (R190, D10; DESIGN CHOICE, log 1). -/
opaque Config.implMatchAtLeast : Nat → Duration → Duration → Bool

/-- The checksum body of the instances outside the default, by body number: open (R150, D19; DESIGN CHOICE, log 1). -/
opaque Config.implChecksum : Nat → Record → BitVec 4

/-- Free value: what DEC_REC holds where the spec says "any value" (R25, R204, 93 U1; DESIGN CHOICE, log 4). -/
opaque Config.freeDecRec : Nat → Record

/-- Free value: what DEC_BITS holds where the spec says "any value" (R26, R204, 93 U2; DESIGN CHOICE, log 4). -/
opaque Config.freeDecBits : Nat → Half

end Sys2Proof
end

