-- ==== Sys2Proof/Machine/Params.lean ====
section
/-! DEFINITION. The parameters of 00_scope R6 that have one value (record length, bit counts, footer, carrier, temperature offset, mode codes), and the default profile R6 names for the open ones. -/

namespace Sys2Proof

/-- REC_LEN, the record length in bytes (R6). -/
abbrev Config.recLen : Nat := 8

/-- CANON_BITS, the canonical record length in bits (R6). -/
abbrev Config.canonBits : Nat := 64

/-- BLOCK_BITS, the bits of one data block (R6). -/
abbrev Config.blockBits : Nat := 32

/-- FOOTER_BITS (R6). -/
abbrev Config.footerBits : Nat := 3

/-- FOOTER_VAL, the inter-block footer `0b010` (R6, R77). -/
abbrev Config.footerVal : BitVec Config.footerBits := 0b010#3

/-- CARRIER_HZ, the carrier frequency of every mark (R6, R7). -/
abbrev Config.carrierHz : Nat := 38000

/-- HDR_UNITS, the entries of a header (R194). -/
abbrev Config.hdrUnits : Nat := 2

/-- FTR_UNITS, the "footer" entries of the minimum length (R194). -/
abbrev Config.ftrUnits : Nat := 2

/-- TEMP_OFFSET (R6, D21). -/
abbrev Config.tempOffset : Nat := 16

/-- MODE_AUTO (R6, D22). -/
abbrev Config.modeAuto : Nat := 0
/-- MODE_COOL (R6, D22). -/
abbrev Config.modeCool : Nat := 1
/-- MODE_DRY (R6, D22). -/
abbrev Config.modeDry : Nat := 2
/-- MODE_FAN (R6, D22). -/
abbrev Config.modeFan : Nat := 3
/-- MODE_HEAT (R6, D22). -/
abbrev Config.modeHeat : Nat := 4

/-- The default RESET_IMAGE, `00 09 20 50 00 20 00 50` (R6, R35, D20). -/
def Config.refResetImage : Record := ⟨0x00, 0x09, 0x20, 0x50, 0x00, 0x20, 0x00, 0x50⟩

/-- The default profile of R6: REF_TIMING, REF_MATCH, REF_CSUM, the default RESET_IMAGE, the default
swing tables, SUBST_AUTO_LOCKS_TEMP false, DUR_W 32. PRESUMED: R6 marks most of these values "from general
knowledge, not in source". DESIGN CHOICE: RX_MAX is open without a default and is 1024 here. Unsafe: see
log 2; no statement about the block rests on this profile unless it names it. -/
def Config.ref : Config where
  tHdrMark := 9000
  tHdrSpace := 4500
  tBitMark := 620
  tOneSpace := 1600
  tZeroSpace := 540
  tGap := 19000
  tMsg := 19000
  matcher := .ref
  checksum := .ref
  resetImage := Config.refResetImage
  swingAutoSet := [1#4, 7#4, 9#4, 11#4]
  swingAutoCode := 1#4
  swingManualSet := [2#4, 3#4, 4#4, 5#4, 6#4]
  swingLastPosCode := 0#4
  substAutoLocksTemp := false
  durW := 32
  rxMax := 1024

end Sys2Proof
end

