-- ==== Sys2Proof/Machine/Checksum.lean ====
section
/-! DEFINITION. CHECKSUM_FN (41_checksum R150), its default REF_CSUM (R151), the fixup of a record (R152) and the validity test (R155, R156). -/

namespace Sys2Proof

/-- REF_CSUM (R151): 10 plus the low nibbles of bytes 0 to 3 plus the high nibbles of bytes 4 to 6, on
naturals, reduced modulo 16 once at the end (R157). -/
def refChecksum (x : Record) : BitVec 4 :=
  BitVec.ofNat 4
    ((10
      + (x.b0.extractLsb' 0 4).toNat + (x.b1.extractLsb' 0 4).toNat
      + (x.b2.extractLsb' 0 4).toNat + (x.b3.extractLsb' 0 4).toNat
      + (x.b4.extractLsb' 4 4).toNat + (x.b5.extractLsb' 4 4).toNat
      + (x.b6.extractLsb' 4 4).toNat) % 16)

/-- `CHECKSUM_FN(X)` of the instance (R150). A body outside the default sees the record with its checksum
nibble cleared, which is contract C2: the value never depends on `X[7][7:4]`. -/
def Config.checksumFn (c : Config) (x : Record) : BitVec 4 :=
  match c.checksum with
  | .ref => refChecksum x
  | .impl n => Config.implChecksum n (x.put RecField.checksum 0#4)

/-- The record after `fixup()`: its checksum nibble holds CHECKSUM_FN of it, the rest is kept (R152). -/
def Config.fixup (c : Config) (x : Record) : Record :=
  x.put RecField.checksum (c.checksumFn x)

/-- Whether the stored checksum nibble is right: equality of two 4-bit values (R155, R156, R157). -/
def Config.checksumValid (c : Config) (x : Record) : Bool :=
  x.get RecField.checksum == c.checksumFn x

end Sys2Proof
end

