-- ==== Sys2Proof/Machine/Matchers.lean ====
section
/-! DEFINITION. The three duration predicates of the capture collaborator (43_decoder R190) and their default REF_MATCH (R192). -/

namespace Sys2Proof

/-- TOL, the tolerance of REF_MATCH in percent (R192). -/
def refTol : Nat := 25

/-- EXC, the mark excess of REF_MATCH in microseconds (R192). -/
def refExc : Nat := 50

/-- `low(x) = floor(x * (100 - TOL) / 100)` (R192). -/
def refLow (x : Nat) : Nat := x * (100 - refTol) / 100

/-- `high(x) = ceil(x * (100 + TOL) / 100)` (R192). -/
def refHigh (x : Nat) : Nat := (x * (100 + refTol) + 99) / 100

/-- MatchMark of REF_MATCH (R192). -/
def refMatchMark (d e : Duration) : Bool :=
  decide (refLow (e + refExc) ≤ d) && decide (d ≤ refHigh (e + refExc))

/-- MatchSpace of REF_MATCH; `e - EXC` is taken as 0 below EXC, as the subtraction of naturals does (R192). -/
def refMatchSpace (d e : Duration) : Bool :=
  decide (refLow (e - refExc) ≤ d) && decide (d ≤ refHigh (e - refExc))

/-- MatchAtLeast of REF_MATCH (R192). -/
def refMatchAtLeast (d m : Duration) : Bool := decide (refLow m ≤ d)

/-- `MatchMark(d, e)` of the instance (R190). -/
def Config.matchMark (c : Config) (d e : Duration) : Bool :=
  match c.matcher with
  | .ref => refMatchMark d e
  | .impl n => Config.implMatchMark n d e

/-- `MatchSpace(d, e)` of the instance (R190). -/
def Config.matchSpace (c : Config) (d e : Duration) : Bool :=
  match c.matcher with
  | .ref => refMatchSpace d e
  | .impl n => Config.implMatchSpace n d e

/-- `MatchAtLeast(d, m)` of the instance (R190). -/
def Config.matchAtLeast (c : Config) (d m : Duration) : Bool :=
  match c.matcher with
  | .ref => refMatchAtLeast d m
  | .impl n => Config.implMatchAtLeast n d m

end Sys2Proof
end

