-- ==== Sys2Proof/Syntax.lean ====
section
/-! DEFINITION. The syntax of the block's commands: the inductive `Instr` with one constructor per row of spec/opcode_table.json, the opcodes and operand forms of 30_encoding R71 and R80, and the command the host presents (R70). -/

namespace Sys2Proof

/-- The commands (30_encoding R80). An operand is of exactly the width its field has (R71, R72), so every
term is a command the host can issue. `din` stands only in the two commands that read DIN (R70). -/
inductive Instr where
  | nop
  | reset
  | setRaw (din : DWord)
  | getRaw
  | fixup
  | csumCalc
  | csumValidRec
  | csumValidD (din : DWord)
  | setPower (p : Bool)
  | getPower
  | setMode (m : Byte)
  | getMode
  | setTemp (t : Byte)
  | getTemp
  | setFan (f : Byte)
  | getFan
  | setSwingV (auto : Bool) (pos : Byte)
  | getSwingAuto
  | getSwingPos
  | setSleep (v : Bool)
  | getSleep
  | setTurbo (v : Bool)
  | getTurbo
  | setLight (v : Bool)
  | getLight
  | setXfan (v : Bool)
  | getXfan
  | encode (len : Byte) (rep : Half)
  | send (rep : Half)
  | decode (strict : Bool) (nbits : Half)
  | getDec
  | getDecBits
  deriving DecidableEq, Repr

/-- The assigned opcodes (R80). -/
inductive Opcode where
  | nop | reset | setRaw | getRaw | fixup | csumCalc | csumValidRec | csumValidD
  | setPower | getPower | setMode | getMode | setTemp | getTemp | setFan | getFan
  | setSwingV | getSwingAuto | getSwingPos | setSleep | getSleep | setTurbo | getTurbo
  | setLight | getLight | setXfan | getXfan
  | encode | send | decode | getDec | getDecBits
  deriving DecidableEq, Repr

/-- The operand forms (R71). -/
inductive Form where
  | z | raw | f1 | v8 | sw | enc | snd | dec
  deriving DecidableEq, Repr

/-- What the host presents for one command: the command word and the data operand (R29, R70, R82). -/
structure Command where
  cw : Word
  din : DWord
  deriving DecidableEq, Repr

/-- Why a command is illegal (R81). The host sees only ILLEGAL; the reason is a label. -/
inductive Illegal where
  /-- OPC is not in the map of R80. -/
  | unassignedOpcode (opc : Byte)
  /-- A field or field bit that the form marks 0 is not 0. -/
  | reservedNonzero (op : Opcode)
  deriving DecidableEq, Repr

/-- The pseudo-instruction `ON` (R84). -/
def Instr.on : Instr := .setPower true

/-- The pseudo-instruction `OFF` (R84). -/
def Instr.off : Instr := .setPower false

end Sys2Proof
end

