-- ==== Sys2Proof/WellFormed.lean ====
section
/-! DEFINITION. What makes the things around a command well formed. `Instr` itself has no ill-formed term: its operand types are exactly the widths of 30_encoding R71 and R72 (DEDUCED, log 13). What types do not say is checked here: the configuration of the instance (43_decoder R191; D7, D20, D24) and a capture the collaborator supplies (10_state R28). The legality of a command word (R81) is the decoder's, in Decode.lean. -/

namespace Sys2Proof

/-- The matcher contract M1 to M4 of R191; M5 holds of every function. The round trip of R178 needs it, no
other rule does. -/
abbrev Config.Contract (c : Config) : Prop :=
  (c.matchMark c.tHdrMark c.tHdrMark = true ∧ c.matchMark c.tBitMark c.tBitMark = true) ∧
  (c.matchSpace c.tHdrSpace c.tHdrSpace = true ∧ c.matchSpace c.tOneSpace c.tOneSpace = true ∧
    c.matchSpace c.tZeroSpace c.tZeroSpace = true) ∧
  c.matchSpace c.tZeroSpace c.tOneSpace = false ∧
  (c.matchAtLeast c.tGap c.tMsg = true ∧ c.matchAtLeast c.tMsg c.tMsg = true)

/-- Every timing constant fits DUR_W bits (D7). -/
abbrev Config.TimingFits (c : Config) : Prop :=
  ∀ d ∈ [c.tHdrMark, c.tHdrSpace, c.tBitMark, c.tOneSpace, c.tZeroSpace, c.tGap, c.tMsg], d < 2 ^ c.durW

/-- The constraint of D20 on RESET_IMAGE: byte 0 is 0, the temperature code is 9, power (high) is off. -/
abbrev Config.ResetImageOk (c : Config) : Prop :=
  c.resetImage.b0 = 0#8 ∧ c.resetImage.get RecField.temp = 9#4 ∧ c.resetImage.get RecField.powerHigh = 0#1

/-- The constraint of R6 and D24 on the swing tables: four auto codes, five manual codes, the sets
disjoint, the generic auto code not a manual code, the sentinel not an auto code. That each code is below
16 is the type. -/
abbrev Config.SwingTablesOk (c : Config) : Prop :=
  c.swingAutoSet.length = 4 ∧ c.swingAutoSet.Nodup ∧
  c.swingManualSet.length = 5 ∧ c.swingManualSet.Nodup ∧
  (∀ p ∈ c.swingAutoSet, p ∉ c.swingManualSet) ∧
  c.swingAutoCode ∉ c.swingManualSet ∧ c.swingLastPosCode ∉ c.swingAutoSet

/-- The constraints the spec puts on the parameters of every instance (D7, D20, D24). -/
abbrev Config.WellFormed (c : Config) : Prop :=
  c.TimingFits ∧ c.ResetImageOk ∧ c.SwingTablesOk

/-- A capture the collaborator may supply: at most RX_MAX entries, each of DUR_W bits (R28). -/
abbrev Config.CaptureOk (c : Config) (rx : List Duration) : Prop :=
  rx.length ≤ c.rxMax ∧ ∀ d ∈ rx, d < 2 ^ c.durW

end Sys2Proof
end

