-- ==== Sys2Proof/Decode.lean ====
section
/-! DEFINITION. The command decoder and encoder, from the same tables of 30_encoding: fields (R70), forms (R71), operand assembly (R72), opcode map (R80), legality (R81). -/

namespace Sys2Proof

/-- OPC, `CW[31:24]` (R70). -/
def Command.opc (c : Command) : Byte := c.cw.extractLsb' 24 8

/-- Field A, `CW[23:16]` (R70). -/
def Command.fieldA (c : Command) : Byte := c.cw.extractLsb' 16 8

/-- Field B, `CW[15:8]` (R70). -/
def Command.fieldB (c : Command) : Byte := c.cw.extractLsb' 8 8

/-- Field C, `CW[7:0]` (R70). -/
def Command.fieldC (c : Command) : Byte := c.cw.extractLsb' 0 8

/-- IMM16, `CW[15:0]`, which is B and C read as one u16 (R70). -/
def Command.imm16 (c : Command) : Half := c.cw.extractLsb' 0 16

/-- The opcode map (R80). -/
def Opcode.code : Opcode → Byte
  | .nop => 0x00
  | .reset => 0x01
  | .setRaw => 0x02
  | .getRaw => 0x03
  | .fixup => 0x04
  | .csumCalc => 0x05
  | .csumValidRec => 0x06
  | .csumValidD => 0x07
  | .setPower => 0x10
  | .getPower => 0x11
  | .setMode => 0x12
  | .getMode => 0x13
  | .setTemp => 0x14
  | .getTemp => 0x15
  | .setFan => 0x16
  | .getFan => 0x17
  | .setSwingV => 0x18
  | .getSwingAuto => 0x19
  | .getSwingPos => 0x1A
  | .setSleep => 0x1B
  | .getSleep => 0x1C
  | .setTurbo => 0x1D
  | .getTurbo => 0x1E
  | .setLight => 0x1F
  | .getLight => 0x20
  | .setXfan => 0x21
  | .getXfan => 0x22
  | .encode => 0x30
  | .send => 0x31
  | .decode => 0x40
  | .getDec => 0x41
  | .getDecBits => 0x42

/-- Every assigned opcode, in the order of their numbers (R80). -/
def Opcode.all : List Opcode :=
  [.nop, .reset, .setRaw, .getRaw, .fixup, .csumCalc, .csumValidRec, .csumValidD,
   .setPower, .getPower, .setMode, .getMode, .setTemp, .getTemp, .setFan, .getFan,
   .setSwingV, .getSwingAuto, .getSwingPos, .setSleep, .getSleep, .setTurbo, .getTurbo,
   .setLight, .getLight, .setXfan, .getXfan,
   .encode, .send, .decode, .getDec, .getDecBits]

/-- The opcode an OPC value selects; none when it is unassigned (R80, R81). -/
def Opcode.ofCode (b : Byte) : Option Opcode := Opcode.all.find? fun o => o.code == b

/-- The form of each opcode (R71, R80). -/
def Opcode.form : Opcode → Form
  | .setRaw | .csumValidD => .raw
  | .setPower | .setSleep | .setTurbo | .setLight | .setXfan => .f1
  | .setMode | .setTemp | .setFan => .v8
  | .setSwingV => .sw
  | .encode => .enc
  | .send => .snd
  | .decode => .dec
  | .nop | .reset | .getRaw | .fixup | .csumCalc | .csumValidRec
  | .getPower | .getMode | .getTemp | .getFan | .getSwingAuto | .getSwingPos
  | .getSleep | .getTurbo | .getLight | .getXfan | .getDec | .getDecBits => .z

/-- A one-bit operand's field: `A[7:1]` = 0 (R71). -/
def highBitsZero (a : Byte) : Bool := a.extractLsb' 1 7 == 0#7

/-- Whether every field and field bit that the form marks 0 is 0 (R71, R81). -/
def Form.reservedZero (f : Form) (c : Command) : Bool :=
  match f with
  | .z => c.fieldA == 0#8 && c.fieldB == 0#8 && c.fieldC == 0#8
  | .raw => c.fieldA == 0#8 && c.fieldB == 0#8 && c.fieldC == 0#8
  | .f1 => highBitsZero c.fieldA && c.fieldB == 0#8 && c.fieldC == 0#8
  | .v8 => c.fieldB == 0#8 && c.fieldC == 0#8
  | .sw => highBitsZero c.fieldA && c.fieldC == 0#8
  | .enc => true
  | .snd => c.fieldA == 0#8
  | .dec => highBitsZero c.fieldA

/-- A bool operand is the one bit `A[0]` (R72). -/
def Command.flagA (c : Command) : Bool := c.fieldA.getLsbD 0

/-- The command with its operands assembled from its fields as they stand (R72). -/
def Opcode.assemble (op : Opcode) (c : Command) : Instr :=
  match op with
  | .nop => .nop
  | .reset => .reset
  | .setRaw => .setRaw c.din
  | .getRaw => .getRaw
  | .fixup => .fixup
  | .csumCalc => .csumCalc
  | .csumValidRec => .csumValidRec
  | .csumValidD => .csumValidD c.din
  | .setPower => .setPower c.flagA
  | .getPower => .getPower
  | .setMode => .setMode c.fieldA
  | .getMode => .getMode
  | .setTemp => .setTemp c.fieldA
  | .getTemp => .getTemp
  | .setFan => .setFan c.fieldA
  | .getFan => .getFan
  | .setSwingV => .setSwingV c.flagA c.fieldB
  | .getSwingAuto => .getSwingAuto
  | .getSwingPos => .getSwingPos
  | .setSleep => .setSleep c.flagA
  | .getSleep => .getSleep
  | .setTurbo => .setTurbo c.flagA
  | .getTurbo => .getTurbo
  | .setLight => .setLight c.flagA
  | .getLight => .getLight
  | .setXfan => .setXfan c.flagA
  | .getXfan => .getXfan
  | .encode => .encode c.fieldA c.imm16
  | .send => .send c.imm16
  | .decode => .decode c.flagA c.imm16
  | .getDec => .getDec
  | .getDecBits => .getDecBits

/-- The command decoder: the operation is selected from OPC alone, then the reserved fields of its form
are checked (R80, R81, R104). DIN is looked at by no check (R70). -/
def decode (c : Command) : Except Illegal Instr :=
  match Opcode.ofCode c.opc with
  | none => .error (.unassignedOpcode c.opc)
  | some op => if op.form.reservedZero c then .ok (op.assemble c) else .error (.reservedNonzero op)

/-- The opcode of a command (R80). -/
def Instr.opcode : Instr → Opcode
  | .nop => .nop
  | .reset => .reset
  | .setRaw _ => .setRaw
  | .getRaw => .getRaw
  | .fixup => .fixup
  | .csumCalc => .csumCalc
  | .csumValidRec => .csumValidRec
  | .csumValidD _ => .csumValidD
  | .setPower _ => .setPower
  | .getPower => .getPower
  | .setMode _ => .setMode
  | .getMode => .getMode
  | .setTemp _ => .setTemp
  | .getTemp => .getTemp
  | .setFan _ => .setFan
  | .getFan => .getFan
  | .setSwingV _ _ => .setSwingV
  | .getSwingAuto => .getSwingAuto
  | .getSwingPos => .getSwingPos
  | .setSleep _ => .setSleep
  | .getSleep => .getSleep
  | .setTurbo _ => .setTurbo
  | .getTurbo => .getTurbo
  | .setLight _ => .setLight
  | .getLight => .getLight
  | .setXfan _ => .setXfan
  | .getXfan => .getXfan
  | .encode _ _ => .encode
  | .send _ => .send
  | .decode _ _ => .decode
  | .getDec => .getDec
  | .getDecBits => .getDecBits

/-- A bool operand in field A: bit 0, with `A[7:1]` = 0 (R71). -/
def flagField (b : Bool) : Byte := (BitVec.ofBool b).setWidth 8

/-- Field A of the command word that stands for a command; 0 where the form has none (R71, R83). -/
def Instr.wordA : Instr → Byte
  | .setPower p => flagField p
  | .setMode m => m
  | .setTemp t => t
  | .setFan f => f
  | .setSwingV auto _ => flagField auto
  | .setSleep v => flagField v
  | .setTurbo v => flagField v
  | .setLight v => flagField v
  | .setXfan v => flagField v
  | .encode len _ => len
  | .decode strict _ => flagField strict
  | .nop | .reset | .setRaw _ | .getRaw | .fixup | .csumCalc | .csumValidRec | .csumValidD _
  | .getPower | .getMode | .getTemp | .getFan | .getSwingAuto | .getSwingPos | .getSleep | .getTurbo
  | .getLight | .getXfan | .send _ | .getDec | .getDecBits => 0#8

/-- IMM16, or B and C, of the command word that stands for a command; 0 where the form has none (R71, R83). -/
def Instr.wordImm : Instr → Half
  | .setSwingV _ pos => pos ++ 0#8
  | .encode _ rep => rep
  | .send rep => rep
  | .decode _ nbits => nbits
  | .setPower _ | .setMode _ | .setTemp _ | .setFan _ | .setSleep _ | .setTurbo _ | .setLight _ | .setXfan _
  | .nop | .reset | .setRaw _ | .getRaw | .fixup | .csumCalc | .csumValidRec | .csumValidD _
  | .getPower | .getMode | .getTemp | .getFan | .getSwingAuto | .getSwingPos | .getSleep | .getTurbo
  | .getLight | .getXfan | .getDec | .getDecBits => 0#16

/-- The DIN operand of a command of form RAW (R71); 0 where DIN is ignored. -/
def Instr.dinOperand : Instr → DWord
  | .setRaw din => din
  | .csumValidD din => din
  | .setPower _ | .setMode _ | .setTemp _ | .setFan _ | .setSwingV _ _ | .setSleep _ | .setTurbo _
  | .setLight _ | .setXfan _ | .encode _ _ | .send _ | .decode _ _
  | .nop | .reset | .getRaw | .fixup | .csumCalc | .csumValidRec
  | .getPower | .getMode | .getTemp | .getFan | .getSwingAuto | .getSwingPos | .getSleep | .getTurbo
  | .getLight | .getXfan | .getDec | .getDecBits => 0#64

/-- The command encoder: the word and data operand that stand for a command, every reserved field 0
(R70, R71, R80, R83). -/
def encode (i : Instr) : Command where
  cw := i.opcode.code ++ i.wordA ++ i.wordImm
  din := i.dinOperand

/-- A command as one number: bits 31..0 are CW and bits 95..32 are DIN (DESIGN CHOICE, log 12). Of `w` only the low
`nbits` bits count; every bit of the command above them is 0. -/
def Command.ofBits (nbits w : Nat) : Command where
  cw := BitVec.ofNat 32 (w % 2 ^ nbits)
  din := BitVec.ofNat 64 (w % 2 ^ nbits / 2 ^ 32)

/-- The command the decoder reads from an instruction whose bits are `w`. -/
def decodeTableWord (nbits w : Nat) : Option Instr :=
  match decode (Command.ofBits nbits w) with
  | .ok i => some i
  | .error _ => none

end Sys2Proof
end

