-- ==== Sys2Proof/Machine/State.lean ====
section
/-! DEFINITION. The state of the block (10_state), the inputs the outside world presents, the response, and the state after a power-on reset (R35, R250). -/

namespace Sys2Proof.Machine

/-- The polarity of a pulse (R12): a mark is carrier on, a space is silence. -/
inductive Polarity where
  | mark
  | space
  deriving DecidableEq, Repr

/-- One item `(pol, dur)` of the transmit stream (R27). -/
structure Item where
  pol : Polarity
  dur : Duration
  deriving DecidableEq, Repr

/-- RSP_CODE (R73). -/
inductive RspCode where
  | done
  | illegal
  deriving DecidableEq, Repr

/-- One response: RSP_CODE and RSP_VAL (R29, R73). -/
structure Response where
  code : RspCode
  val : DWord
  deriving DecidableEq, Repr

/-- What the outside world can do to the block between two commands (60_exceptions, section 3; R250). -/
inductive Input where
  /-- The host presents a command (R29, R237). -/
  | command (c : Command)
  /-- The capture collaborator supplies a new RX (R28, R239). -/
  | capture (rx : List Duration)
  /-- The integrator powers the block on again (R244, R250). -/
  | powerOn
  deriving DecidableEq, Repr

/-- No fault exists: "The block raises no exception, trap, fault or panic, and never halts or hangs on any
input" (R230). So the type has no constructor, nobody raises one, and that is the spec's own rule (log 15, safe). -/
inductive Fault where
  deriving DecidableEq, Repr

/-- Why a step has no meaning. -/
inductive Refusal where
  /-- Raised by an arm of `exec` whose command has no meaning yet; no arm does. Safe: the machine stops. -/
  | notModelled (mnemonic : String)
  deriving DecidableEq, Repr

/-- The block and what it reads. Plain data. -/
structure State where
  /-- REC, the command record (R20). -/
  record : Record
  /-- DEC_REC, the decoder output record (R25). -/
  decRec : Record
  /-- DEC_BITS, the bit count of the last successful DECODE (R26). -/
  decBits : Half
  /-- TX, every item ever appended, oldest first (R27). -/
  tx : List Item
  /-- RX, the capture the collaborator supplies; RXLEN is its length (R28). An input, not block
  state; DESIGN CHOICE: held here, and empty at reset (log 5). -/
  rx : List Duration
  /-- The response to the command that the last step took; none where it took no command (R29; DESIGN CHOICE,
  log 7). -/
  rsp : Option Response
  /-- What the outside world presents, next first (R31, R237, R239; DESIGN CHOICE, log 6). -/
  inputs : List Input
  /-- The configuration of this instance, which no command writes (R6, R33; DESIGN CHOICE, log 1). -/
  cfg : Config
  /-- The model's own: how many free values have been drawn (DESIGN CHOICE, log 4). -/
  freeIdx : Nat
  deriving DecidableEq, Repr

/-- What every meaning and every step answers. -/
abbrev Result := Host.Outcome State Fault Refusal

/-- An instance of configuration `cfg` right after a power-on reset (R35, R250): REC is RESET_IMAGE, TX is
empty. DESIGN CHOICE: DEC_REC and DEC_BITS, which R35 leaves at any value, are 0 (log 3). Unsafe. -/
def State.powerUp (cfg : Config) : State where
  record := cfg.resetImage
  decRec := ⟨0, 0, 0, 0, 0, 0, 0, 0⟩
  decBits := 0
  tx := []
  rx := []
  rsp := none
  inputs := []
  cfg := cfg
  freeIdx := 0

/-- The machine right after reset, with the default profile of R6 (log 2). -/
def State.reset : State := State.powerUp Config.ref

end Sys2Proof.Machine
end

