-- ==== Sys2Proof/Machine/Flags.lean ====
section
/-! DEFINITION. Response values (30_encoding R74). The block has no status flags (10_state R32): the one thing it computes in their place is the boolean result, returned in RSP_VAL[0]. -/

namespace Sys2Proof.Machine

/-- A field value zero-extended to 64 bits (R74, `zext_64` of R9). -/
def zext {w : Nat} (v : BitVec w) : DWord := v.setWidth 64

/-- A boolean result: RSP_VAL[0] is the bit and RSP_VAL[63:1] is 0 (R32, R74). -/
def boolVal (b : Bool) : DWord := zext (BitVec.ofBool b)

/-- RSP_CODE as its one bit: DONE = 0, ILLEGAL = 1 (R73). -/
def RspCode.bit : RspCode → BitVec 1
  | .done => 0#1
  | .illegal => 1#1

end Sys2Proof.Machine
end

