-- ==== Sys2Proof/Machine/Ops.lean ====
section
/-! DEFINITION. The named operations over the state: writing REC, appending to TX, writing DEC_REC and DEC_BITS, responding, and what the outside world presents. There is no memory access and no exception entry or return to share: the block has neither (20_memory R53, 60_exceptions R230, R234). The one abnormal outcome outside a command's own rule is `illegal` (30_encoding R81). -/

namespace Sys2Proof.Machine

/-- `REC <- r` (R10, R20). -/
def State.setRecord (s : State) (r : Record) : State := { s with record := r }

/-- Appends items to TX in order (R27, R60). -/
def State.appendTx (s : State) (items : List Item) : State := { s with tx := s.tx ++ items }

/-- What a successful DECODE writes: DEC_REC and the bit count (R25, R26, R200). -/
def State.setDecoded (s : State) (y : Record) (bits : Half) : State :=
  { s with decRec := y, decBits := bits }

/-- DEC_REC and DEC_BITS take any value (R204, R35, D18): two free values, and the next draw is a fresh
one (log 4). -/
def State.freeDecoded (s : State) : State :=
  { s with
    decRec := Config.freeDecRec s.freeIdx
    decBits := Config.freeDecBits s.freeIdx
    freeIdx := s.freeIdx + 1 }

/-- The response of this step's command (R29). -/
def State.setRsp (s : State) (r : Response) : State := { s with rsp := some r }

/-- `respond(v)`: the command ends with DONE and value `v` (R10, R73). -/
def respond (v : DWord) (s : State) : Result := .next (s.setRsp ⟨.done, v⟩)

/-- `illegal()`: ILLEGAL, value 0, no state change (R10, R81). -/
def illegal (s : State) : Result := .next (s.setRsp ⟨.illegal, 0⟩)

/-- `fail(cause)` of DECODE: the command ends with `respond(0)`, and DEC_REC and DEC_BITS take any value
(R10, R204). The cause is recorded nowhere (R205). -/
def decodeFail (s : State) : Result := respond 0 s.freeDecoded

/-- The state with what remains to be presented. -/
def State.setInputs (s : State) (rest : List Input) : State := { s with inputs := rest }

/-- A step in which no command is presented: the block is idle and keeps its state (R244, R251). No
response is held (R29). -/
def idle (s : State) : State := { s with rsp := none }

/-- The capture collaborator supplies RX between two commands (R28, R239), never during a DECODE (R61;
DEDUCED, log 8); the block does nothing. -/
def supplyCapture (rx : List Duration) (s : State) : State := { s with rx := rx, rsp := none }

/-- A power-on reset (R250): REC is RESET_IMAGE, TX is empty, DEC_REC and DEC_BITS hold any value (R35).
RX and what the outside world presents are not block state and are kept (DESIGN CHOICE, log 9). -/
def powerOn (s : State) : State :=
  { s.freeDecoded with record := s.cfg.resetImage, tx := [], rsp := none }

end Sys2Proof.Machine
end

