-- ==== Sys2Proof/Machine/ChecksumCommands.lean ====
section
/-! DEFINITION. The checksum commands: FIXUP, CSUM_CALC, CSUM_VALID_REC, CSUM_VALID_D (41_checksum R153 to R156). -/

namespace Sys2Proof.Machine

/-- FIXUP (R153). -/
def execFixup (s : State) : Result := respond 0 (s.setRecord (s.cfg.fixup s.record))

/-- CSUM_CALC: the checksum of the stored record, not written (R154). -/
def execCsumCalc (s : State) : Result := respond (zext (s.cfg.checksumFn s.record)) s

/-- CSUM_VALID_REC: the stored record as it stands, no fixup (R155). -/
def execCsumValidRec (s : State) : Result := respond (boolVal (s.cfg.checksumValid s.record)) s

/-- CSUM_VALID_D: the 8 bytes of DIN; no block state is read or written (R156). -/
def execCsumValidD (din : DWord) (s : State) : Result :=
  respond (boolVal (s.cfg.checksumValid (unpack din))) s

end Sys2Proof.Machine
end

