-- ==== Sys2Proof/Machine/Capture.lean ====
section
/-! DEFINITION. The pulse-timing matcher and frame validator (43_decoder R193 to R203): what DECODE makes of a capture. A read past the end of RX is a frame error, never a read (R196). -/

namespace Sys2Proof.Machine

/-- Why a decode fails (R231). A label: no rule lets the host see it (R205), so the state does not hold it
(DEDUCED, log 11). -/
inductive DecodeCause where
  | tooShort
  | strictMismatch
  | frameError
  | footerMismatch
  | lengthError
  | checksumError
  deriving DecidableEq, Repr

/-- `RX[j]` is present and an acceptable mark of duration `e` (R190, R196). -/
def markAt (c : Config) (rx : List Duration) (j : Nat) (e : Duration) : Bool :=
  match rx[j]? with
  | some d => c.matchMark d e
  | none => false

/-- `RX[j]` is present and an acceptable space of duration `e` (R190, R196). -/
def spaceAt (c : Config) (rx : List Duration) (j : Nat) (e : Duration) : Bool :=
  match rx[j]? with
  | some d => c.matchSpace d e
  | none => false

/-- `RX[j]` is present and reaches at least `m` (R190, R196). -/
def atLeastAt (c : Config) (rx : List Duration) (j : Nat) (m : Duration) : Bool :=
  match rx[j]? with
  | some d => c.matchAtLeast d m
  | none => false

/-- One bit of the bit matcher, at the mark index `o`: the mark first, then a one is tested before a zero
(R193). -/
def matchBit (c : Config) (rx : List Duration) (o : Nat) : Option Bool :=
  if markAt c rx o c.tBitMark then
    if spaceAt c rx (o + 1) c.tOneSpace then some true
    else if spaceAt c rx (o + 1) c.tZeroSpace then some false
    else none
  else none

/-- The value of the `n` bits matched from index `o`, least significant first (R193). -/
def matchValue (c : Config) (rx : List Duration) : (n : Nat) → (o : Nat) → Option (BitVec n)
  | 0, _ => some 0#0
  | n + 1, o =>
    match matchBit c rx o with
    | none => none
    | some b =>
      match matchValue c rx n (o + 2) with
      | none => none
      | some v => some (v.concat b)

/-- `matchBits(o, n)`: the value and the entries consumed, `2n` (R193). -/
def matchBits (c : Config) (rx : List Duration) (o n : Nat) : Option (BitVec n × Nat) :=
  (matchValue c rx n o).map fun v => (v, 2 * n)

/-- `MIN_LEN(n)`, on naturals (R194; DEDUCED, log 16). -/
def minLen (n : Nat) : Nat := 2 * (n + 3) + Config.hdrUnits + Config.ftrUnits + 1

/-- The record of the two 32-bit block values: byte `i` of block 1 is `v1[8i+7:8i]`, of block 2
`v2[8i+7:8i]` (R51, R200). -/
def assembleBlocks (v1 v2 : BitVec Config.blockBits) : Record where
  b0 := v1.extractLsb' 0 8
  b1 := v1.extractLsb' 8 8
  b2 := v1.extractLsb' 16 8
  b3 := v1.extractLsb' 24 8
  b4 := v2.extractLsb' 0 8
  b5 := v2.extractLsb' 8 8
  b6 := v2.extractLsb' 16 8
  b7 := v2.extractLsb' 24 8

/-- Step 8 of R200 at offset `o`: the trailing mark, and the trailing space if RX has an entry for it (R197). -/
def trailerOk (c : Config) (rx : List Duration) (o : Nat) : Bool :=
  markAt c rx o c.tBitMark && (decide (rx.length ≤ o + 1) || atLeastAt c rx (o + 1) c.tMsg)

/-- Steps 6 to 8 of R200 from offset `o`: the inter-block gap, block 2, the trailer. -/
def matchSecondHalf (c : Config) (rx : List Duration) (o : Nat) : Option (BitVec Config.blockBits) :=
  if markAt c rx o c.tBitMark && atLeastAt c rx (o + 1) c.tMsg then
    match matchBits c rx (o + 2) Config.blockBits with
    | none => none
    | some (v2, u) => if trailerOk c rx (o + 2 + u) then some v2 else none
  else none

/-- Steps 3 to 8 of R200: the frame. Every failure is FrameError but a wrong footer value (R202). -/
def matchFrame (c : Config) (rx : List Duration) : Except DecodeCause Record :=
  if markAt c rx 0 c.tHdrMark && spaceAt c rx 1 c.tHdrSpace then
    match matchBits c rx 2 Config.blockBits with
    | none => .error .frameError
    | some (v1, u1) =>
      match matchBits c rx (2 + u1) Config.footerBits with
      | none => .error .frameError
      | some (f, u2) =>
        if f = Config.footerVal then
          match matchSecondHalf c rx (2 + u1 + u2) with
          | none => .error .frameError
          | some v2 => .ok (assembleBlocks v1 v2)
        else .error .footerMismatch
  else .error .frameError

/-- The number of data bits a matched frame has, whatever NBITS is (R198). -/
def decodedBits : Nat := Config.blockBits + Config.blockBits

/-- Step 9 of R200: in strict mode the bit count and the checksum. -/
def strictCheck (c : Config) (strict : Bool) (y : Record) : Except DecodeCause Record :=
  if strict then
    if decodedBits ≠ Config.canonBits then .error .lengthError
    else if c.checksumValid y then .ok y
    else .error .checksumError
  else .ok y

/-- Steps 1 to 9 of R200, in that order; the first check that fails ends the decode (R201). -/
def decodeCapture (c : Config) (strict : Bool) (nbits : Nat) (rx : List Duration) :
    Except DecodeCause Record :=
  if rx.length < minLen nbits then .error .tooShort
  else if strict && decide (nbits ≠ Config.canonBits) then .error .strictMismatch
  else
    match matchFrame c rx with
    | .error e => .error e
    | .ok y => strictCheck c strict y

end Sys2Proof.Machine
end

