-- ==== Sys2Proof/Machine/DecoderCommands.lean ====
section
/-! DEFINITION. The decoder commands: DECODE, GET_DEC, GET_DEC_BITS (43_decoder R200, R206, R207). -/

namespace Sys2Proof.Machine

/-- DECODE: on success DEC_REC, the bit count 64 and the result 1; on any failure the result 0, with
DEC_REC and DEC_BITS at any value. REC, TX and RX are never touched (R200, R204). -/
def execDecode (strict : Bool) (nbits : Half) (s : State) : Result :=
  match decodeCapture s.cfg strict nbits.toNat s.rx with
  | .ok y => respond (boolVal true) (s.setDecoded y (BitVec.ofNat 16 decodedBits))
  | .error _ => decodeFail s

/-- GET_DEC: the decoder output record, no fixup (R206). -/
def execGetDec (s : State) : Result := respond s.decRec.pack s

/-- GET_DEC_BITS (R207). -/
def execGetDecBits (s : State) : Result := respond (zext s.decBits) s

end Sys2Proof.Machine
end

