-- ==== Sys2Proof/Machine/Frame.lean ====
section
/-! DEFINITION. The mark/space sequencer (42_encoder R170 to R172): the items of a bit group, of one frame, and of a transmission of several frames. -/

namespace Sys2Proof.Machine

/-- A mark of duration `d` (R12). -/
def mark (d : Duration) : Item := ⟨.mark, d⟩

/-- A space of duration `d` (R12). -/
def space (d : Duration) : Item := ⟨.space, d⟩

/-- `S(b)`: the space duration of a bit of value `b` (R76). -/
def bitSpace (c : Config) (b : Bool) : Duration := if b then c.tOneSpace else c.tZeroSpace

/-- A bit of value `b` is sent as two items (R76). -/
def emitBit (c : Config) (b : Bool) : List Item := [mark c.tBitMark, space (bitSpace c b)]

/-- `emitBits(v, n)`: the bits of `v`, least significant first (R170). -/
def emitBits (c : Config) {n : Nat} (v : BitVec n) : List Item :=
  (List.range n).flatMap fun i => emitBit c (v.getLsbD i)

/-- `frame(X)`: header, block 1, footer, mid-message footer mark and gap, block 2, trailer (R171). -/
def frame (c : Config) (x : Record) : List Item :=
  [mark c.tHdrMark, space c.tHdrSpace]
    ++ (emitBits c x.b0 ++ emitBits c x.b1 ++ emitBits c x.b2 ++ emitBits c x.b3)
    ++ emitBits c Config.footerVal
    ++ [mark c.tBitMark, space c.tGap]
    ++ (emitBits c x.b4 ++ emitBits c x.b5 ++ emitBits c x.b6 ++ emitBits c x.b7)
    ++ [mark c.tBitMark, space c.tMsg]

/-- A transmission with repeat count `r`: `r + 1` frames back to back (R172). -/
def transmission (c : Config) (x : Record) (r : Nat) : List Item :=
  (List.replicate (r + 1) (frame c x)).flatten

/-- The durations of a list of items, in order: what an ideal channel gives the capture collaborator. -/
def durations (items : List Item) : List Duration := items.map Item.dur

/-- The time the items take on the air, in microseconds (R262). -/
def totalDuration (items : List Item) : Nat := (durations items).sum

/-- The carrier frequency the transmission collaborator gives an item: CARRIER_HZ on a mark, none on a
space (R7, R238). -/
def Item.carrier (i : Item) : Option Nat :=
  match i.pol with
  | .mark => some Config.carrierHz
  | .space => none

end Sys2Proof.Machine
end

