-- ==== Sys2Proof/Machine/EncoderCommands.lean ====
section
/-! DEFINITION. The encoder commands: ENCODE and SEND (42_encoder R175 to R177). -/

namespace Sys2Proof.Machine

/-- Appends `rep + 1` frames of REC to TX (R172). -/
def transmit (rep : Half) (s : State) : State := s.appendTx (transmission s.cfg s.record rep.toNat)

/-- ENCODE: with LEN below REC_LEN a silent no-op (ConfigError, R176), else REC as stored goes out (R175). -/
def execEncode (len : Byte) (rep : Half) (s : State) : Result :=
  respond 0 (if len.toNat < Config.recLen then s else transmit rep s)

/-- SEND: fix up, which persists, then transmit (R177). -/
def execSend (rep : Half) (s : State) : Result :=
  respond 0 (transmit rep (s.setRecord (s.cfg.fixup s.record)))

end Sys2Proof.Machine
end

