-- ==== Sys2Proof/Machine/Operands.lean ====
section
/-! DEFINITION. What the setters make of their operands: clamps, locks and code tables (40_record_codec R105, R112, R114, R116, R118). The operand decoder applies none of these (30_encoding R72). -/

namespace Sys2Proof.Machine

/-- Whether the stored mode is `code`; codes 5 to 7 are no named mode (R114, R116). -/
def modeIs (r : Record) (code : Nat) : Bool := (r.get RecField.mode).toNat == code

/-- The temperature code of 25 degrees, 9 (R112, R114). -/
def autoTempCode : BitVec 4 := BitVec.ofNat 4 (25 - Config.tempOffset)

/-- The temperature code SET_TEMP stores: clamped to 16..30, or 25 when the stored mode is Auto (R114). -/
def tempCode (r : Record) (t : Byte) : BitVec 4 :=
  BitVec.ofNat 4
    ((if modeIs r Config.modeAuto then 25 else min (max t.toNat 16) 30) - Config.tempOffset)

/-- The fan speed SET_FAN stores: clamped to 0..3, or 1 when the stored mode is Dry (R116). -/
def fanSpeed (r : Record) (f : Byte) : BitVec 2 :=
  BitVec.ofNat 2 (if modeIs r Config.modeDry then 1 else min f.toNat 3)

/-- Whether `m` is one of the five known mode values (R112). -/
def knownMode (m : Nat) : Bool :=
  m == Config.modeAuto || m == Config.modeCool || m == Config.modeDry || m == Config.modeFan || m == Config.modeHeat

/-- Whether SET_MODE `m` also forces the temperature to 25: Auto itself does, a substituted Auto only as
SUBST_AUTO_LOCKS_TEMP says (R112, D23). -/
def locksTemp (c : Config) (m : Nat) : Bool :=
  m == Config.modeAuto || (!knownMode m && c.substAutoLocksTemp)

/-- Whether SET_MODE `m` also forces the fan to 1: Dry does (R112). -/
def locksFan (m : Nat) : Bool := m == Config.modeDry

/-- The mode code SET_MODE stores: an unknown mode is Auto (R112). -/
def modeCode (m : Nat) : BitVec 3 := BitVec.ofNat 3 (if knownMode m then m else Config.modeAuto)

/-- Whether a position operand is in a table of 4-bit codes (R118). -/
def inTable (pos : Byte) (table : List (BitVec 4)) : Bool := table.any fun p => p.toNat == pos.toNat

/-- The position code SET_SWING_V stores: the operand where the table of the chosen mode has it, else that
mode's generic code (R118). -/
def swingCode (c : Config) (auto : Bool) (pos : Byte) : BitVec 4 :=
  if auto then
    if inTable pos c.swingAutoSet then pos.setWidth 4 else c.swingAutoCode
  else
    if inTable pos c.swingManualSet then pos.setWidth 4 else c.swingLastPosCode

end Sys2Proof.Machine
end

