-- ==== Sys2Proof/Machine/FieldCommands.lean ====
section
/-! DEFINITION. The field setters and getters (40_record_codec R110 to R128). A setter writes only its own field's bits, plus what the Auto and Dry locks force (R105, D26); a getter returns the stored bits (R106). -/

namespace Sys2Proof.Machine

/-- A one-bit field as a boolean operand or result. -/
def bitOf (b : Bool) : BitVec 1 := BitVec.ofBool b

/-- What every getter but GET_POWER and GET_TEMP does: the field's bits as stored (R106). -/
def getField {w : Nat} (f : RecField w) (s : State) : Result := respond (zext (s.record.get f)) s

/-- What every one-bit setter but SET_POWER does: the field's bit, the others kept (D26). -/
def setBit (f : RecField 1) (v : Bool) (s : State) : Result := respond 0 (s.setRecord (s.record.put f (bitOf v)))

/-- SET_POWER: both power bits (R110). -/
def execSetPower (p : Bool) (s : State) : Result :=
  respond 0 (s.setRecord ((s.record.put RecField.powerLow (bitOf p)).put RecField.powerHigh (bitOf p)))

/-- GET_POWER: 1 only when both bits are 1 (R111). -/
def execGetPower (s : State) : Result :=
  respond (zext (s.record.get RecField.powerLow &&& s.record.get RecField.powerHigh)) s

/-- The record after SET_MODE `m`: the forced temperature, the forced fan, then the mode code (R112). -/
def withMode (c : Config) (m : Nat) (r : Record) : Record :=
  let r1 := if locksTemp c m then r.put RecField.temp autoTempCode else r
  let r2 := if locksFan m then r1.put RecField.fan 1#2 else r1
  r2.put RecField.mode (modeCode m)

/-- SET_MODE (R112). -/
def execSetMode (m : Byte) (s : State) : Result := respond 0 (s.setRecord (withMode s.cfg m.toNat s.record))

/-- GET_MODE (R113). -/
def execGetMode (s : State) : Result := getField RecField.mode s

/-- SET_TEMP (R114). -/
def execSetTemp (t : Byte) (s : State) : Result :=
  respond 0 (s.setRecord (s.record.put RecField.temp (tempCode s.record t)))

/-- GET_TEMP: the stored code plus TEMP_OFFSET, 16 to 31, in 64 bits (R115, R129). -/
def execGetTemp (s : State) : Result :=
  respond (BitVec.ofNat 64 ((s.record.get RecField.temp).toNat + Config.tempOffset)) s

/-- SET_FAN (R116). -/
def execSetFan (f : Byte) (s : State) : Result :=
  respond 0 (s.setRecord (s.record.put RecField.fan (fanSpeed s.record f)))

/-- GET_FAN (R117). -/
def execGetFan (s : State) : Result := getField RecField.fan s

/-- SET_SWING_V: the auto flag and the position code (R118). -/
def execSetSwingV (auto : Bool) (pos : Byte) (s : State) : Result :=
  respond 0
    (s.setRecord ((s.record.put RecField.swingAuto (bitOf auto)).put RecField.swingPos (swingCode s.cfg auto pos)))

/-- GET_SWING_AUTO (R119). -/
def execGetSwingAuto (s : State) : Result := getField RecField.swingAuto s

/-- GET_SWING_POS (R120). -/
def execGetSwingPos (s : State) : Result := getField RecField.swingPos s

/-- SET_SLEEP (R121). -/
def execSetSleep (v : Bool) (s : State) : Result := setBit RecField.sleep v s

/-- GET_SLEEP (R122). -/
def execGetSleep (s : State) : Result := getField RecField.sleep s

/-- SET_TURBO (R123). -/
def execSetTurbo (v : Bool) (s : State) : Result := setBit RecField.turbo v s

/-- GET_TURBO (R124). -/
def execGetTurbo (s : State) : Result := getField RecField.turbo s

/-- SET_LIGHT (R125). -/
def execSetLight (v : Bool) (s : State) : Result := setBit RecField.light v s

/-- GET_LIGHT (R126). -/
def execGetLight (s : State) : Result := getField RecField.light s

/-- SET_XFAN (R127). -/
def execSetXfan (v : Bool) (s : State) : Result := setBit RecField.xfan v s

/-- GET_XFAN (R128). -/
def execGetXfan (s : State) : Result := getField RecField.xfan s

end Sys2Proof.Machine
end

