-- ==== Sys2Proof/Machine/RecordCommands.lean ====
section
/-! DEFINITION. The whole-record commands: NOP, RESET, SET_RAW, GET_RAW (40_record_codec R100 to R103). -/

namespace Sys2Proof.Machine

/-- NOP (R100). -/
def execNop (s : State) : Result := respond 0 s

/-- RESET: REC is RESET_IMAGE as it stands, with no fixup; DEC_REC, DEC_BITS and TX are left (R101, R252). -/
def execReset (s : State) : Result := respond 0 (s.setRecord s.cfg.resetImage)

/-- SET_RAW: REC is the bytes of DIN, nothing normalized (R102). -/
def execSetRaw (din : DWord) (s : State) : Result := respond 0 (s.setRecord (unpack din))

/-- GET_RAW: fix up, which persists, and return the record (R103, R56). -/
def execGetRaw (s : State) : Result :=
  respond (s.cfg.fixup s.record).pack (s.setRecord (s.cfg.fixup s.record))

end Sys2Proof.Machine
end

