-- ==== Sys2Proof/Machine/Dispatch.lean ====
section
/-! DEFINITION. The meaning of each command: one arm per constructor of Instr, each a call of the command's own definition. -/

namespace Sys2Proof.Machine

def exec (i : Instr) (s : State) : Host.Outcome State Fault Refusal :=
  match i with
  | .nop => Sys2Proof.Machine.execNop s
  | .reset => Sys2Proof.Machine.execReset s
  | .setRaw din => Sys2Proof.Machine.execSetRaw din s
  | .getRaw => Sys2Proof.Machine.execGetRaw s
  | .fixup => Sys2Proof.Machine.execFixup s
  | .csumCalc => Sys2Proof.Machine.execCsumCalc s
  | .csumValidRec => Sys2Proof.Machine.execCsumValidRec s
  | .csumValidD din => Sys2Proof.Machine.execCsumValidD din s
  | .setPower p => Sys2Proof.Machine.execSetPower p s
  | .getPower => Sys2Proof.Machine.execGetPower s
  | .setMode m => Sys2Proof.Machine.execSetMode m s
  | .getMode => Sys2Proof.Machine.execGetMode s
  | .setTemp t => Sys2Proof.Machine.execSetTemp t s
  | .getTemp => Sys2Proof.Machine.execGetTemp s
  | .setFan f => Sys2Proof.Machine.execSetFan f s
  | .getFan => Sys2Proof.Machine.execGetFan s
  | .setSwingV auto pos => Sys2Proof.Machine.execSetSwingV auto pos s
  | .getSwingAuto => Sys2Proof.Machine.execGetSwingAuto s
  | .getSwingPos => Sys2Proof.Machine.execGetSwingPos s
  | .setSleep v => Sys2Proof.Machine.execSetSleep v s
  | .getSleep => Sys2Proof.Machine.execGetSleep s
  | .setTurbo v => Sys2Proof.Machine.execSetTurbo v s
  | .getTurbo => Sys2Proof.Machine.execGetTurbo s
  | .setLight v => Sys2Proof.Machine.execSetLight v s
  | .getLight => Sys2Proof.Machine.execGetLight s
  | .setXfan v => Sys2Proof.Machine.execSetXfan v s
  | .getXfan => Sys2Proof.Machine.execGetXfan s
  | .encode len rep => Sys2Proof.Machine.execEncode len rep s
  | .send rep => Sys2Proof.Machine.execSend rep s
  | .decode strict nbits => Sys2Proof.Machine.execDecode strict nbits s
  | .getDec => Sys2Proof.Machine.execGetDec s
  | .getDecBits => Sys2Proof.Machine.execGetDecBits s

end Sys2Proof.Machine
end

