-- ==== Sys2Proof/Machine/Present.lean ====
section
/-! DEFINITION. What the block does with one presented command: the legality check first, then the command's meaning (30_encoding R81, 40_record_codec R104, 60_exceptions R232). -/

namespace Sys2Proof.Machine

/-- A presented command: illegal words answer ILLEGAL and change nothing, every other runs (R81, R104). -/
def runCommand (c : Command) (s : State) : Result :=
  match decode c with
  | .ok i => exec i s
  | .error _ => illegal s

end Sys2Proof.Machine
end

