-- ==== Sys2Proof/Machine/Step.lean ====
section
/-! DEFINITION. One step of the block: what the outside world presents next is taken and, if it is a command, decoded and executed as one atomic step (00_scope R3, 10_state R31, 40_record_codec R104). -/

namespace Sys2Proof.Machine

/-- One step. With nothing presented the block is idle (R244, R251). -/
def step (s : State) : Host.Outcome State Fault Refusal :=
  match s.inputs with
  | [] => .next (idle s)
  | .command c :: rest => runCommand c (s.setInputs rest)
  | .capture rx :: rest => .next (supplyCapture rx (s.setInputs rest))
  | .powerOn :: rest => .next (powerOn (s.setInputs rest))

/-- The state in which the host presents the instruction whose bits are `w` next: step takes it from the
head of the inputs (DESIGN CHOICE, log 6). Nothing else changes. -/
def State.withFetchWord (s : State) (nbits w : Nat) : State :=
  { s with inputs := .command (Command.ofBits nbits w) :: s.inputs }

end Sys2Proof.Machine
end

