-- ==== Sys2Proof/Machine/Assembler.lean ====
section
/-! DEFINITION. The assembler syntax of 30_encoding R83 and the pseudo-instructions of R84: one command per line, the mnemonic, operands separated by commas, numbers in decimal or with a 0x prefix, and a comment after a semicolon. What R83 leaves open (blanks, letter case, the digits of a byte or number, an operand too wide) is DESIGN CHOICE, log 14. -/

namespace Sys2Proof

/-- The mnemonics (R80). -/
def Opcode.mnemonic : Opcode → String
  | .nop => "NOP"
  | .reset => "RESET"
  | .setRaw => "SET_RAW"
  | .getRaw => "GET_RAW"
  | .fixup => "FIXUP"
  | .csumCalc => "CSUM_CALC"
  | .csumValidRec => "CSUM_VALID_REC"
  | .csumValidD => "CSUM_VALID_D"
  | .setPower => "SET_POWER"
  | .getPower => "GET_POWER"
  | .setMode => "SET_MODE"
  | .getMode => "GET_MODE"
  | .setTemp => "SET_TEMP"
  | .getTemp => "GET_TEMP"
  | .setFan => "SET_FAN"
  | .getFan => "GET_FAN"
  | .setSwingV => "SET_SWING_V"
  | .getSwingAuto => "GET_SWING_AUTO"
  | .getSwingPos => "GET_SWING_POS"
  | .setSleep => "SET_SLEEP"
  | .getSleep => "GET_SLEEP"
  | .setTurbo => "SET_TURBO"
  | .getTurbo => "GET_TURBO"
  | .setLight => "SET_LIGHT"
  | .getLight => "GET_LIGHT"
  | .setXfan => "SET_XFAN"
  | .getXfan => "GET_XFAN"
  | .encode => "ENCODE"
  | .send => "SEND"
  | .decode => "DECODE"
  | .getDec => "GET_DEC"
  | .getDecBits => "GET_DEC_BITS"

/-- What one line of assembly is. -/
inductive AsmLine where
  /-- No command: the line is blank or only a comment. -/
  | blank
  /-- A command the host can present. -/
  | command (c : Command)
  /-- Not a line of R83. -/
  | malformed
  deriving DecidableEq, Repr

/-- The value of a digit character in base 16, upper or lower case. -/
def asmDigit (ch : Char) : Option Nat :=
  if '0'.toNat ≤ ch.toNat ∧ ch.toNat ≤ '9'.toNat then some (ch.toNat - '0'.toNat)
  else if 'A'.toNat ≤ ch.toNat ∧ ch.toNat ≤ 'F'.toNat then some (ch.toNat - 'A'.toNat + 10)
  else if 'a'.toNat ≤ ch.toNat ∧ ch.toNat ≤ 'f'.toNat then some (ch.toNat - 'a'.toNat + 10)
  else none

/-- The number a nonempty list of digits stands for in base `base`. -/
def asmDigits (base : Nat) (chars : List Char) : Option Nat :=
  if chars.isEmpty then none
  else chars.foldl
    (fun acc ch =>
      match acc, asmDigit ch with
      | some n, some d => if d < base then some (n * base + d) else none
      | _, _ => none)
    (some 0)

/-- A number operand: decimal, or hexadecimal after `0x` (R83). DESIGN CHOICE: leading zeros are taken, and the
`x` of the prefix is the small letter R83 has (log 14). -/
def asmNumber (chars : List Char) : Option Nat :=
  match chars with
  | '0' :: 'x' :: digits => asmDigits 16 digits
  | digits => asmDigits 10 digits

/-- The words of a line: what stands between blanks. -/
def asmWords (chars : List Char) : List (List Char) :=
  (chars.splitOnP fun ch => ch == ' ' || ch == '\t').filter fun w => !w.isEmpty

/-- The number operands of a line: separated by commas, blanks around each ignored (R83). -/
def asmOperands (chars : List Char) : Option (List Nat) :=
  if (asmWords chars).isEmpty then some []
  else (chars.splitOn ',').mapM fun part =>
    match asmWords part with
    | [w] => asmNumber w
    | _ => none

/-- A record operand: eight hex bytes, byte 0 first, packed as R52 says (R83). DESIGN CHOICE: R83 does not say how
many digits a byte has; any number of digits from one up is taken whose value is below 256 (`5`, `05`, `0050`),
with no `0x` before them (log 14). -/
def asmRecord (chars : List Char) : Option DWord :=
  match (asmWords chars).mapM (asmDigits 16) with
  | some [x0, x1, x2, x3, x4, x5, x6, x7] =>
    if [x0, x1, x2, x3, x4, x5, x6, x7].all fun x => decide (x < 256) then
      some (BitVec.ofNat 8 x7 ++ BitVec.ofNat 8 x6 ++ BitVec.ofNat 8 x5 ++ BitVec.ofNat 8 x4
        ++ BitVec.ofNat 8 x3 ++ BitVec.ofNat 8 x2 ++ BitVec.ofNat 8 x1 ++ BitVec.ofNat 8 x0)
    else none
  | _ => none

/-- Fields A and IMM16 from the number operands of a form, every reserved field 0 (R71, R83). -/
def Form.asmFields (f : Form) (operands : List Nat) : Option (Byte × Half) :=
  match f, operands with
  | .z, [] => some (0#8, 0#16)
  | .f1, [v] => if v < 2 then some (BitVec.ofNat 8 v, 0#16) else none
  | .v8, [v] => if v < 256 then some (BitVec.ofNat 8 v, 0#16) else none
  | .sw, [auto, pos] =>
    if auto < 2 ∧ pos < 256 then some (BitVec.ofNat 8 auto, BitVec.ofNat 8 pos ++ 0#8) else none
  | .enc, [len, rep] =>
    if len < 256 ∧ rep < 65536 then some (BitVec.ofNat 8 len, BitVec.ofNat 16 rep) else none
  | .snd, [rep] => if rep < 65536 then some (0#8, BitVec.ofNat 16 rep) else none
  | .dec, [strict, nbits] =>
    if strict < 2 ∧ nbits < 65536 then some (BitVec.ofNat 8 strict, BitVec.ofNat 16 nbits) else none
  | _, _ => none

/-- A mnemonic with its operands (R83). -/
def Opcode.asmCommand (op : Opcode) (operands : List Char) : AsmLine :=
  if op.form = .raw then
    match asmRecord operands with
    | some din => .command ⟨op.code ++ 0#8 ++ 0#16, din⟩
    | none => .malformed
  else
    match (asmOperands operands).bind op.form.asmFields with
    | some (a, imm) => .command ⟨op.code ++ a ++ imm, 0#64⟩
    | none => .malformed

/-- A line that begins with the word `m`; `ON` and `OFF` are SET_POWER 1 and SET_POWER 0 (R84). -/
def asmWord (m : List Char) (operands : List Char) : AsmLine :=
  if m = "ON".toList ∧ (asmWords operands).isEmpty then .command (encode Instr.on)
  else if m = "OFF".toList ∧ (asmWords operands).isEmpty then .command (encode Instr.off)
  else
    match Opcode.all.find? fun op => op.mnemonic.toList == m with
    | some op => op.asmCommand operands
    | none => .malformed

/-- One line of assembly (R83). -/
def assembleLine (line : String) : AsmLine :=
  let text := (line.toList.takeWhile fun ch => ch != ';').dropWhile fun ch => ch == ' ' || ch == '\t'
  if text.isEmpty then .blank
  else
    asmWord (text.takeWhile fun ch => ch != ' ' && ch != '\t')
      (text.dropWhile fun ch => ch != ' ' && ch != '\t')

end Sys2Proof
end

