-- ==== Sys2Proof/Safety.lean ====
section
/-! DEFINITION. What counts as a safe run of the block, in the terms the statements use: completing, a sequence of commands, the shape of TX, the acceptance of a capture index by index, and the invariant of the state. -/

namespace Sys2Proof.Machine

/-- The outcome is a next state: no fault, no refusal (R230). -/
def Completes (o : Result) : Prop := ∃ t, o = .next t

/-- Whatever DIN is, the command word `cw` is the command `i` (R70, R80). -/
def IsWordOf (cw : Word) (i : Instr) : Prop := ∀ din, decode ⟨cw, din⟩ = .ok i

/-- The commands of a list one after another, each from the state the one before it left (R59). -/
def execAll : List Instr → State → Result
  | [], s => .next s
  | i :: rest, s =>
    match exec i s with
    | .next t => execAll rest t
    | .fault f => .fault f
    | .refused r => .refused r

/-- The seven timing constants (R6). -/
def timingConstants (c : Config) : List Duration :=
  [c.tHdrMark, c.tHdrSpace, c.tBitMark, c.tOneSpace, c.tZeroSpace, c.tGap, c.tMsg]

/-- Item `k` is a mark when `k` is even and a space when `k` is odd (R78, R173). -/
def Alternates (items : List Item) : Prop :=
  ∀ k item, items[k]? = some item → item.pol = if k % 2 = 0 then Polarity.mark else Polarity.space

/-- Whole frames of 140 items, alternating from a mark, every duration a timing constant (R173). -/
structure WholeFrames (c : Config) (items : List Item) : Prop where
  frames : items.length % 140 = 0
  alternates : Alternates items
  constants : ∀ item ∈ items, item.dur ∈ timingConstants c

/-- Bit `p` of the 64 payload bits in time order, `REC[p div 8][p mod 8]` (R75). -/
def payloadBit (x : Record) (p : Nat) : Bool := x.bit (Fin.ofNat 8 (p / 8)) (p % 8)

/-- Item `k` of a frame as the table of R78 has it. -/
def tableItem (c : Config) (x : Record) (k : Nat) : Item :=
  if k = 0 then mark c.tHdrMark
  else if k = 1 then space c.tHdrSpace
  else if k < 66 then if k % 2 = 0 then mark c.tBitMark else space (bitSpace c (payloadBit x ((k - 3) / 2)))
  else if k < 72 then if k % 2 = 0 then mark c.tBitMark else space (if k = 69 then c.tOneSpace else c.tZeroSpace)
  else if k = 72 then mark c.tBitMark
  else if k = 73 then space c.tGap
  else if k < 138 then if k % 2 = 0 then mark c.tBitMark else space (bitSpace c (payloadBit x (32 + (k - 75) / 2)))
  else if k = 138 then mark c.tBitMark
  else space c.tMsg

/-- The entries at `o` and `o + 1` are there and read as a bit of value `b`: the mark matches, and the
space matches a one, or a zero and not a one (R193). -/
def ReadsBit (c : Config) (rx : List Duration) (o : Nat) (b : Bool) : Prop :=
  ∃ m d, rx[o]? = some m ∧ rx[o + 1]? = some d ∧ c.matchMark m c.tBitMark = true ∧
    (if b then c.matchSpace d c.tOneSpace = true
     else c.matchSpace d c.tOneSpace = false ∧ c.matchSpace d c.tZeroSpace = true)

/-- The header at entries 0 and 1 (R195, R200 step 3). -/
def HeaderOk (c : Config) (rx : List Duration) : Prop :=
  ∃ m d, rx[0]? = some m ∧ rx[1]? = some d ∧ c.matchMark m c.tHdrMark = true ∧ c.matchSpace d c.tHdrSpace = true

/-- Block 1 at entries 2 to 65 reads as the first four bytes of `y` (R195, R200 step 4). -/
def FirstBlockIs (c : Config) (rx : List Duration) (y : Record) : Prop :=
  ∀ k < 32, ReadsBit c rx (2 + 2 * k) (payloadBit y k)

/-- The footer at entries 66 to 71 reads as `v` (R195, R202). -/
def FooterIs (c : Config) (rx : List Duration) (v : BitVec 3) : Prop :=
  ∀ k < 3, ReadsBit c rx (66 + 2 * k) (v.getLsbD k)

/-- The inter-block gap at entries 72 and 73 (R195, R200 step 6). -/
def GapOk (c : Config) (rx : List Duration) : Prop :=
  ∃ m d, rx[72]? = some m ∧ rx[73]? = some d ∧ c.matchMark m c.tBitMark = true ∧ c.matchAtLeast d c.tMsg = true

/-- Block 2 at entries 74 to 137 reads as the last four bytes of `y` (R195, R200 step 7). -/
def SecondBlockIs (c : Config) (rx : List Duration) (y : Record) : Prop :=
  ∀ k < 32, ReadsBit c rx (74 + 2 * k) (payloadBit y (32 + k))

/-- The trailing mark at entry 138, and the trailing space at 139 unless RX ends before it (R195, R197). -/
def TrailerOk (c : Config) (rx : List Duration) : Prop :=
  (∃ m, rx[138]? = some m ∧ c.matchMark m c.tBitMark = true) ∧
  (rx.length ≤ 139 ∨ ∃ d, rx[139]? = some d ∧ c.matchAtLeast d c.tMsg = true)

/-- Steps 1 and 2 of R200: the capture is long enough, and strict mode has NBITS 64. -/
def LengthOk (strict : Bool) (nbits : Nat) (rx : List Duration) : Prop :=
  2 * (nbits + 3) + 2 + 2 + 1 ≤ rx.length ∧ (strict = true → nbits = 64)

/-- A DECODE of `rx` succeeds with the record `y` (R200): every one of steps 1 to 9 passes. -/
structure Accepts (c : Config) (strict : Bool) (nbits : Nat) (rx : List Duration) (y : Record) : Prop where
  length : LengthOk strict nbits rx
  header : HeaderOk c rx
  first : FirstBlockIs c rx y
  footer : FooterIs c rx 0b010#3
  gap : GapOk c rx
  second : SecondBlockIs c rx y
  trailer : TrailerOk c rx
  checksum : strict = true → (y.byte 7).extractLsb' 4 4 = c.checksumFn y

/-- What the outside world may present: any command, a capture within RX_MAX and DUR_W, a power-on (R28). -/
def InputOk (c : Config) : Input → Prop
  | .command _ => True
  | .capture rx => c.CaptureOk rx
  | .powerOn => True

/-- The invariant of the block: the instance's parameters meet the spec's constraints, TX is whole frames,
RX and every capture still to come are ones the collaborator may supply, an ILLEGAL response has value 0. -/
structure Inv (s : State) : Prop where
  cfgOk : s.cfg.WellFormed
  txOk : WholeFrames s.cfg s.tx
  rxOk : s.cfg.CaptureOk s.rx
  inputsOk : ∀ i ∈ s.inputs, InputOk s.cfg i
  rspOk : ∀ r, s.rsp = some r → r.code = .illegal → r.val = 0#64

end Sys2Proof.Machine
end

