-- ==== Sys2Proof/Certificates/Slice0/Obligations.lean ====
section
/-! DEFINITION. The statements for the provers. A statement about an instruction gives its word, its next state as one equation (so every field it does not name is unchanged) and the new bits. -/

open Sys2Proof Sys2Proof.Machine

/-- The (match, mask) pairs of spec/opcode_table.json: `cw` is the row's command when `cw &&& mask = match`. -/
def Sys2Proof.tablePatterns : List (Word × Word) :=
  [(0x00000000, 0xFFFFFFFF), (0x01000000, 0xFFFFFFFF), (0x02000000, 0xFFFFFFFF), (0x03000000, 0xFFFFFFFF),
   (0x04000000, 0xFFFFFFFF), (0x05000000, 0xFFFFFFFF), (0x06000000, 0xFFFFFFFF), (0x07000000, 0xFFFFFFFF),
   (0x10000000, 0xFFFEFFFF), (0x11000000, 0xFFFFFFFF), (0x12000000, 0xFF00FFFF), (0x13000000, 0xFFFFFFFF),
   (0x14000000, 0xFF00FFFF), (0x15000000, 0xFFFFFFFF), (0x16000000, 0xFF00FFFF), (0x17000000, 0xFFFFFFFF),
   (0x18000000, 0xFFFE00FF), (0x19000000, 0xFFFFFFFF), (0x1A000000, 0xFFFFFFFF), (0x1B000000, 0xFFFEFFFF),
   (0x1C000000, 0xFFFFFFFF), (0x1D000000, 0xFFFEFFFF), (0x1E000000, 0xFFFFFFFF), (0x1F000000, 0xFFFEFFFF),
   (0x20000000, 0xFFFFFFFF), (0x21000000, 0xFFFEFFFF), (0x22000000, 0xFFFFFFFF), (0x30000000, 0xFF000000),
   (0x31000000, 0xFFFF0000), (0x40000000, 0xFFFE0000), (0x41000000, 0xFFFFFFFF), (0x42000000, 0xFFFFFFFF)]

/-- The word `cw` fits a row of the opcode table (R80, R81). -/
def Sys2Proof.FitsTable (cw : Word) : Prop := ∃ row ∈ tablePatterns, cw &&& row.2 = row.1

/-- The word of a form F1 command: the base word with the bool operand in `A[0]` (R71). -/
def Sys2Proof.flagWord (base : Word) (v : Bool) : Word := base ||| (BitVec.ofBool v).setWidth 32 <<< 16

/-- A command of form F1 that writes one bit of REC, bit `j` of byte `b`, and nothing else. -/
def Sys2Proof.WritesOneBit (i : Bool → Instr) (base : Word) (b : Fin 8) (j : Nat) : Prop :=
  ∀ (v : Bool) (s : State), IsWordOf (flagWord base v) (i v) ∧
    ∃ R, exec (i v) s = .next { s with record := R, rsp := some ⟨.done, 0#64⟩ } ∧
      ∀ b' j', j' < 8 → R.bit b' j' = if b' = b ∧ j' = j then v else s.record.bit b' j'

/-- A command of form Z that returns the `w` bits from bit `lo` of record byte `b`, zero-extended, and
changes nothing. -/
def Sys2Proof.ReadsField (i : Instr) (cw : Word) (b : Fin 8) (lo w : Nat) : Prop :=
  ∀ s : State, IsWordOf cw i ∧
    exec i s = .next { s with rsp := some ⟨.done, ((s.record.byte b).extractLsb' lo w).setWidth 64⟩ }

/-! ### Encoding -/

/-- Words written out from R80 decode to their commands (R71, R72, R80). -/
def Obligations.WrittenWordsDecode : Prop :=
  decode ⟨0x10010000#32, 0⟩ = .ok (.setPower true) ∧
  decode ⟨0x12FF0000#32, 0⟩ = .ok (.setMode 255) ∧
  decode ⟨0x14160000#32, 0⟩ = .ok (.setTemp 22) ∧
  decode ⟨0x18016300#32, 0⟩ = .ok (.setSwingV true 99) ∧
  decode ⟨0x02000000#32, 0x5000200050200900⟩ = .ok (.setRaw 0x5000200050200900) ∧
  decode ⟨0x04000000#32, 0⟩ = .ok .fixup ∧
  decode ⟨0x30FFFFFF#32, 0⟩ = .ok (.encode 255 65535) ∧
  decode ⟨0x31000002#32, 0⟩ = .ok (.send 2) ∧
  decode ⟨0x40010040#32, 0⟩ = .ok (.decode true 64)

/-- Decoding the encoding of any command gives the command back (R70, R71, R80). -/
def Obligations.DecodeOfEncodeIsTheCommand : Prop :=
  ∀ i : Instr, decode (encode i) = .ok i

/-- A legal command word is the encoding of what it decodes to, and in form RAW so is DIN: no bit is dropped
(R70, R71, R81). -/
def Obligations.EncodeOfDecodeIsTheWord : Prop :=
  ∀ (c : Command) (i : Instr), decode c = .ok i →
    (encode i).cw = c.cw ∧ (i.opcode.form = .raw → (encode i).din = c.din)

/-- The legal command words are exactly those that fit a row of the opcode table (R71, R80, R81). -/
def Obligations.LegalWordsAreTheTable : Prop :=
  ∀ c : Command, (∃ i, decode c = .ok i) ↔ FitsTable c.cw

/-- DIN is read only by SET_RAW and CSUM_VALID_D: for any other opcode the decoded command, or its
illegality, does not depend on DIN (R70). -/
def Obligations.DinMattersOnlyInFormRaw : Prop :=
  ∀ (cw : Word) (d d' : DWord), cw.extractLsb' 24 8 ≠ 0x02#8 → cw.extractLsb' 24 8 ≠ 0x07#8 →
    decode ⟨cw, d⟩ = decode ⟨cw, d'⟩

/-- The assembler's pseudo-instructions ON and OFF are SET_POWER 1 and SET_POWER 0 (R83, R84). The DIN of
0 is the model's choice (logs 12 and 14). -/
def Obligations.OnAndOffAssembleToSetPower : Prop :=
  assembleLine "ON" = .command ⟨0x10010000#32, 0⟩ ∧ decode ⟨0x10010000#32, 0⟩ = .ok (.setPower true) ∧
  assembleLine "OFF" = .command ⟨0x10000000#32, 0⟩ ∧ decode ⟨0x10000000#32, 0⟩ = .ok (.setPower false)

/-- A line of assembly that is a command gives a legal one, with every reserved field 0: it is the encoding of what
it decodes to (R83). Which lines assemble at all (blanks, letter case, digits, operands too wide) is the model's choice
(log 14), and so is that a line outside form RAW presents a DIN of 0, which the block ignores (logs 12 and 14). -/
def Obligations.AssembledLinesAreLegal : Prop :=
  ∀ (line : String) (c : Command), assembleLine line = .command c → ∃ i, decode c = .ok i ∧ encode i = c

/-! ### The step -/

/-- When the host's next command decodes to `i`, the step is `exec i` on the state with that command taken
(R31, R59, R104). That commands stand in a queue of the state is the model's choice (log 6). -/
def Obligations.StepRunsTheDecodedCommand : Prop :=
  ∀ (s : State) (c : Command) (rest : List Input) (i : Instr),
    s.inputs = .command c :: rest → decode c = .ok i →
      step s = exec i { s with inputs := rest }

/-- A command word that fits no row of the table changes no state, appends nothing to TX, and answers
ILLEGAL with value 0 (R81). -/
def Obligations.IllegalCommandChangesNothing : Prop :=
  ∀ (s : State) (c : Command) (rest : List Input),
    s.inputs = .command c :: rest → ¬ FitsTable c.cw →
      step s = .next { s with inputs := rest, rsp := some ⟨.illegal, 0#64⟩ }

/-- Every step goes on, whatever the state. A presented command always ends with a response, ILLEGAL exactly when
its word does not decode; a command that executes always ends with DONE (R230). -/
def Obligations.EveryCommandCompletes : Prop :=
  (∀ s, Completes (step s)) ∧
  (∀ (s : State) (c : Command) (rest : List Input), s.inputs = .command c :: rest →
    ∃ t r, step s = .next t ∧ t.rsp = some r ∧ (r.code = .illegal ↔ ¬ ∃ i, decode c = .ok i)) ∧
  ∀ i s, ∃ t v, exec i s = .next t ∧ t.rsp = some ⟨.done, v⟩

/-- With nothing presented the block keeps everything and holds no response; a supplied capture replaces RX
and nothing else. The response latch and the input queue are the model's choice (logs 6 and 7)
(R28, R61, R244). -/
def Obligations.StepWithoutACommandKeepsTheBlock : Prop :=
  (∀ s : State, s.inputs = [] → step s = .next { s with rsp := none }) ∧
  ∀ (s : State) (rx : List Duration) (rest : List Input), s.inputs = .capture rx :: rest →
    step s = .next { s with inputs := rest, rx := rx, rsp := none }

/-- A power-on reset makes REC the reset image, the same bytes the RESET command writes, and TX empty;
DEC_REC and DEC_BITS may hold anything (R35, R101, R250). What it does to the input queue, the response latch and
RX is the model's choice (log 9), and so is the free-value counter (log 4). -/
def Obligations.PowerOnTakesTheResetState : Prop :=
  (∀ (s : State) (rest : List Input), s.inputs = .powerOn :: rest →
    ∃ y n k, step s = .next { s with
      inputs := rest, record := s.cfg.resetImage, decRec := y, decBits := n, tx := [], rsp := none, freeIdx := k }) ∧
  (∀ cfg, (State.powerUp cfg).record = cfg.resetImage ∧ (State.powerUp cfg).tx = []) ∧
  ∀ s, ∃ t, exec .reset s = .next t ∧ t.record = s.cfg.resetImage

/-- After reset, with the default image: the bytes of REC, the fields they make, and an empty TX (R21, R35).
That `State.reset` is an instance with the default image is the model's choice (log 2). -/
def Obligations.ResetRecordAndFields : Prop :=
  State.reset.record = ⟨0x00, 0x09, 0x20, 0x50, 0x00, 0x20, 0x00, 0x50⟩ ∧ State.reset.tx = [] ∧
  State.reset.record.get RecField.mode = 0 ∧ State.reset.record.get RecField.powerLow = 0 ∧
  State.reset.record.get RecField.powerHigh = 0 ∧ State.reset.record.get RecField.fan = 0 ∧
  State.reset.record.get RecField.swingAuto = 0 ∧ State.reset.record.get RecField.sleep = 0 ∧
  State.reset.record.get RecField.temp = 9 ∧ State.reset.record.get RecField.turbo = 0 ∧
  State.reset.record.get RecField.light = 1 ∧ State.reset.record.get RecField.xfan = 0 ∧
  State.reset.record.get RecField.swingPos = 0 ∧ State.reset.record.get RecField.checksum = 5

/-! ### Whole-record commands -/

/-- NOP leaves every piece of state unchanged and returns DONE, 0 (R100). -/
def Obligations.NopOnlyResponds : Prop :=
  ∀ s : State, IsWordOf 0x00000000#32 .nop ∧ exec .nop s = .next { s with rsp := some ⟨.done, 0#64⟩ }

/-- RESET writes the reset image as it stands and nothing else; with the default image and REF_CSUM the checksum
nibble is then right, and GET_RAW returns the image (R101). -/
def Obligations.ResetWritesTheImageOnly : Prop :=
  ∀ s : State, IsWordOf 0x01000000#32 .reset ∧
    exec .reset s = .next { s with record := s.cfg.resetImage, rsp := some ⟨.done, 0#64⟩ } ∧
    (s.cfg.resetImage = ⟨0x00, 0x09, 0x20, 0x50, 0x00, 0x20, 0x00, 0x50⟩ → s.cfg.checksum = .ref →
      (∃ u, execAll [.reset, .csumValidRec] s = .next u ∧ u.rsp = some ⟨.done, 1#64⟩) ∧
      ∃ u, execAll [.reset, .getRaw] s = .next u ∧ u.rsp = some ⟨.done, 0x5000200050200900#64⟩)

/-- SET_RAW makes byte `i` of REC the bits `[8i+7:8i]` of DIN, whatever DIN is, and changes nothing else
(R102). -/
def Obligations.SetRawStoresTheBytesOfDin : Prop :=
  ∀ (din : DWord) (s : State), decode ⟨0x02000000#32, din⟩ = .ok (.setRaw din) ∧
    ∃ R, exec (.setRaw din) s = .next { s with record := R, rsp := some ⟨.done, 0#64⟩ } ∧
      ∀ i : Fin 8, R.byte i = din.extractLsb' (8 * i) 8

/-- GET_RAW writes the checksum nibble, which stays written, keeps every other bit of REC, and returns the
fixed-up record, byte `i` in bits `[8i+7:8i]` (R103). -/
def Obligations.GetRawFixesUpAndReturnsTheRecord : Prop :=
  ∀ s : State, IsWordOf 0x03000000#32 .getRaw ∧
    ∃ R v, exec .getRaw s = .next { s with record := R, rsp := some ⟨.done, v⟩ } ∧
      (R.byte 7).extractLsb' 4 4 = s.cfg.checksumFn s.record ∧
      (∀ b j, j < 8 → ¬ (b = 7 ∧ 4 ≤ j) → R.bit b j = s.record.bit b j) ∧
      ∀ i : Fin 8, v.extractLsb' (8 * i) 8 = R.byte i

/-- A second GET_RAW with no write in between changes nothing and returns the same value (R56, R103). -/
def Obligations.GetRawTwiceIsGetRawOnce : Prop :=
  ∀ s t : State, exec .getRaw s = .next t → exec .getRaw t = .next t

/-! ### Field commands -/

/-- SET_POWER writes both power bits to its operand and no other bit (R110). -/
def Obligations.SetPowerWritesBothPowerBits : Prop :=
  ∀ (p : Bool) (s : State), IsWordOf (flagWord 0x10000000#32 p) (.setPower p) ∧
    ∃ R, exec (.setPower p) s = .next { s with record := R, rsp := some ⟨.done, 0#64⟩ } ∧
      ∀ b j, j < 8 → R.bit b j = if (b = 0 ∧ j = 3) ∨ (b = 2 ∧ j = 3) then p else s.record.bit b j

/-- GET_POWER returns 1 exactly when both power bits are 1, and changes nothing (R111). -/
def Obligations.GetPowerIsTheAndOfBothBits : Prop :=
  ∀ s : State, IsWordOf 0x11000000#32 .getPower ∧
    exec .getPower s = .next { s with
      rsp := some ⟨.done, if s.record.bit 0 3 = true ∧ s.record.bit 2 3 = true then 1#64 else 0#64⟩ }

/-- SET_MODE stores the mode, Auto for an unknown one; Auto forces the temperature code 9, a substituted
Auto only where SUBST_AUTO_LOCKS_TEMP says so; Dry forces fan 1; every other bit is kept (R112). -/
def Obligations.SetModeStoresModeAndLocks : Prop :=
  ∀ (m : Byte) (s : State), IsWordOf (0x12000000#32 ||| m.setWidth 32 <<< 16) (.setMode m) ∧
    ∃ R, exec (.setMode m) s = .next { s with record := R, rsp := some ⟨.done, 0#64⟩ } ∧
      (R.byte 0).extractLsb' 0 3 = (if m.toNat ≤ 4 then m.extractLsb' 0 3 else 0#3) ∧
      (R.byte 0).extractLsb' 4 2 = (if m = 2#8 then 1#2 else (s.record.byte 0).extractLsb' 4 2) ∧
      (R.byte 1).extractLsb' 0 4 =
        (if m = 0#8 ∨ (4 < m.toNat ∧ s.cfg.substAutoLocksTemp = true) then 9#4
         else (s.record.byte 1).extractLsb' 0 4) ∧
      ∀ b j, j < 8 → ¬ (b = 0 ∧ j < 3) → ¬ (b = 0 ∧ (j = 4 ∨ j = 5)) → ¬ (b = 1 ∧ j < 4) →
        R.bit b j = s.record.bit b j

/-- SET_TEMP stores the temperature clamped to 16..30, or 25 when the stored mode is Auto, as a code 16 less;
every other bit is kept (R114). -/
def Obligations.SetTempClampsAndLocks : Prop :=
  ∀ (t : Byte) (s : State), IsWordOf (0x14000000#32 ||| t.setWidth 32 <<< 16) (.setTemp t) ∧
    ∃ R, exec (.setTemp t) s = .next { s with record := R, rsp := some ⟨.done, 0#64⟩ } ∧
      ((R.byte 1).extractLsb' 0 4).toNat + 16 =
        (if (s.record.byte 0).extractLsb' 0 3 = 0#3 then 25 else min (max t.toNat 16) 30) ∧
      ∀ b j, j < 8 → ¬ (b = 1 ∧ j < 4) → R.bit b j = s.record.bit b j

/-- SET_FAN stores the speed clamped to 0..3, or 1 when the stored mode is Dry; every other bit is kept (R116). -/
def Obligations.SetFanClampsAndLocks : Prop :=
  ∀ (f : Byte) (s : State), IsWordOf (0x16000000#32 ||| f.setWidth 32 <<< 16) (.setFan f) ∧
    ∃ R, exec (.setFan f) s = .next { s with record := R, rsp := some ⟨.done, 0#64⟩ } ∧
      ((R.byte 0).extractLsb' 4 2).toNat =
        (if (s.record.byte 0).extractLsb' 0 3 = 2#3 then 1 else min f.toNat 3) ∧
      ∀ b j, j < 8 → ¬ (b = 0 ∧ (j = 4 ∨ j = 5)) → R.bit b j = s.record.bit b j

/-- SET_SWING_V stores the auto flag, and the position if the table of that mode has it, else the mode's
generic code; every other bit is kept (R118). -/
def Obligations.SetSwingVChecksItsTable : Prop :=
  ∀ (auto : Bool) (pos : Byte) (s : State),
    IsWordOf (flagWord 0x18000000#32 auto ||| pos.setWidth 32 <<< 8) (.setSwingV auto pos) ∧
    ∃ R, exec (.setSwingV auto pos) s = .next { s with record := R, rsp := some ⟨.done, 0#64⟩ } ∧
      R.bit 0 6 = auto ∧
      (∀ p : BitVec 4, p ∈ (if auto then s.cfg.swingAutoSet else s.cfg.swingManualSet) → p.setWidth 8 = pos →
        (R.byte 4).extractLsb' 0 4 = p) ∧
      ((∀ p : BitVec 4, p ∈ (if auto then s.cfg.swingAutoSet else s.cfg.swingManualSet) → p.setWidth 8 ≠ pos) →
        (R.byte 4).extractLsb' 0 4 = if auto then s.cfg.swingAutoCode else s.cfg.swingLastPosCode) ∧
      ∀ b j, j < 8 → ¬ (b = 0 ∧ j = 6) → ¬ (b = 4 ∧ j < 4) → R.bit b j = s.record.bit b j

/-- SET_SLEEP, SET_TURBO, SET_LIGHT and SET_XFAN each write their own bit and no other
(R121, R123, R125, R127). -/
def Obligations.OneBitSettersWriteTheirBit : Prop :=
  WritesOneBit .setSleep 0x1B000000#32 0 7 ∧ WritesOneBit .setTurbo 0x1D000000#32 2 4 ∧
  WritesOneBit .setLight 0x1F000000#32 2 5 ∧ WritesOneBit .setXfan 0x21000000#32 2 7

/-- The getters return their field's bits exactly as stored and change nothing
(R113, R117, R119, R120, R122, R124, R126, R128). -/
def Obligations.GettersReturnTheirFieldAsStored : Prop :=
  ReadsField .getMode 0x13000000#32 0 0 3 ∧ ReadsField .getFan 0x17000000#32 0 4 2 ∧
  ReadsField .getSwingAuto 0x19000000#32 0 6 1 ∧ ReadsField .getSwingPos 0x1A000000#32 4 0 4 ∧
  ReadsField .getSleep 0x1C000000#32 0 7 1 ∧ ReadsField .getTurbo 0x1E000000#32 2 4 1 ∧
  ReadsField .getLight 0x20000000#32 2 5 1 ∧ ReadsField .getXfan 0x22000000#32 2 7 1

/-- GET_TEMP returns the stored code plus 16, which is 16 to 31, and changes nothing (R115). -/
def Obligations.GetTempAddsTheOffset : Prop :=
  ∀ s : State, IsWordOf 0x15000000#32 .getTemp ∧
    ∃ v, exec .getTemp s = .next { s with rsp := some ⟨.done, v⟩ } ∧
      v.toNat = ((s.record.byte 1).extractLsb' 0 4).toNat + 16 ∧ 16 ≤ v.toNat ∧ v.toNat ≤ 31

/-- The Auto and Dry locks act when a setter runs and are not re-applied later: the five consequences of the rule,
then values that stand unlocked under a substituted Auto and under a Dry that SET_RAW stored, then that no command
but RESET, SET_RAW and the lock's own two setters ever changes the temperature code or the fan field (R255). -/
def Obligations.LocksActWhenASetterRuns : Prop :=
  ∀ (t f : Byte) (v : Bool) (s : State),
    (∃ u, execAll [.setTemp t, .setMode 0, .getTemp] s = .next u ∧ u.rsp = some ⟨.done, 25#64⟩) ∧
    (∃ u, execAll [.setMode 0, .setTemp t, .getTemp] s = .next u ∧ u.rsp = some ⟨.done, 25#64⟩) ∧
    (∃ u, execAll [.setMode 0, .setMode 1, .getTemp] s = .next u ∧ u.rsp = some ⟨.done, 25#64⟩) ∧
    (∃ u, execAll [.setFan f, .setMode 2, .getFan] s = .next u ∧ u.rsp = some ⟨.done, 1#64⟩) ∧
    (∃ u, execAll [.setMode 1, .setTemp t, .getTemp] s = .next u ∧
      u.rsp = some ⟨.done, BitVec.ofNat 64 (min (max t.toNat 16) 30)⟩) ∧
    (s.cfg.substAutoLocksTemp = false →
      ∃ u, execAll [.setMode 1, .setTemp 40, .setMode 9, .setFan f, .getTemp] s = .next u ∧
        u.rsp = some ⟨.done, 30#64⟩) ∧
    (∃ u, execAll [.setRaw 0x32, .setTemp t, .setTurbo v, .getFan] s = .next u ∧ u.rsp = some ⟨.done, 3#64⟩) ∧
    ∀ i u, exec i s = .next u →
      (i.opcode ∉ [.reset, .setRaw, .setMode, .setTemp] →
        (u.record.byte 1).extractLsb' 0 4 = (s.record.byte 1).extractLsb' 0 4) ∧
      (i.opcode ∉ [.reset, .setRaw, .setMode, .setFan] →
        (u.record.byte 0).extractLsb' 4 2 = (s.record.byte 0).extractLsb' 4 2)

/-- GET_POWER after SET_POWER p returns p, whatever the two bits were before (R24, R110, R111). -/
def Obligations.GetPowerAfterSetPower : Prop :=
  ∀ (p : Bool) (s : State), ∃ u, execAll [.setPower p, .getPower] s = .next u ∧
    u.rsp = some ⟨.done, (BitVec.ofBool p).setWidth 64⟩

/-! ### Checksum commands -/

/-- CHECKSUM_FN is a function of the record that does not depend on the top nibble of the last byte, in
every configuration (R150). -/
def Obligations.ChecksumIgnoresItsOwnNibble : Prop :=
  ∀ (c : Config) (x y : Record),
    (∀ b j, j < 8 → ¬ (b = 7 ∧ 4 ≤ j) → x.bit b j = y.bit b j) → c.checksumFn x = c.checksumFn y

/-- REF_CSUM is 10 plus the low nibbles of bytes 0 to 3 plus the high nibbles of bytes 4 to 6, modulo 16
(R151). -/
def Obligations.RefChecksumIsTheNibbleSum : Prop :=
  ∀ (c : Config) (x : Record), c.checksum = .ref →
    (c.checksumFn x).toNat =
      (10 + x.b0.toNat % 16 + x.b1.toNat % 16 + x.b2.toNat % 16 + x.b3.toNat % 16
        + x.b4.toNat / 16 + x.b5.toNat / 16 + x.b6.toNat / 16) % 16

/-- FIXUP writes the checksum nibble and no other bit; a second FIXUP changes nothing (R153). -/
def Obligations.FixupWritesTheChecksumNibble : Prop :=
  ∀ s : State, IsWordOf 0x04000000#32 .fixup ∧
    ∃ R, exec .fixup s = .next { s with record := R, rsp := some ⟨.done, 0#64⟩ } ∧
      (R.byte 7).extractLsb' 4 4 = s.cfg.checksumFn s.record ∧
      (∀ b j, j < 8 → ¬ (b = 7 ∧ 4 ≤ j) → R.bit b j = s.record.bit b j) ∧
      ∀ t, exec .fixup s = .next t → exec .fixup t = .next t

/-- CSUM_CALC returns CHECKSUM_FN of the stored record and writes nothing; the result is the same before and
after a FIXUP (R154). -/
def Obligations.CsumCalcReturnsTheChecksum : Prop :=
  ∀ s : State, IsWordOf 0x05000000#32 .csumCalc ∧
    exec .csumCalc s = .next { s with rsp := some ⟨.done, (s.cfg.checksumFn s.record).setWidth 64⟩ } ∧
    ∃ u, execAll [.fixup, .csumCalc] s = .next u ∧
      u.rsp = some ⟨.done, (s.cfg.checksumFn s.record).setWidth 64⟩

/-- CSUM_VALID_REC compares the stored nibble with CHECKSUM_FN of the stored record, and writes nothing; right
after FIXUP, GET_RAW or SEND it returns 1 (R155). -/
def Obligations.CsumValidRecComparesTheNibble : Prop :=
  ∀ s : State, IsWordOf 0x06000000#32 .csumValidRec ∧
    exec .csumValidRec s = .next { s with
      rsp := some ⟨.done, if (s.record.byte 7).extractLsb' 4 4 = s.cfg.checksumFn s.record then 1#64 else 0#64⟩ } ∧
    ∀ i, (i = .fixup ∨ i = .getRaw ∨ ∃ r, i = .send r) →
      ∃ u, execAll [i, .csumValidRec] s = .next u ∧ u.rsp = some ⟨.done, 1#64⟩

/-- CSUM_VALID_D compares the nibble of the caller's bytes with CHECKSUM_FN of them; no block state is read
or written (R156). -/
def Obligations.CsumValidDChecksTheCallersBytes : Prop :=
  ∀ (din : DWord) (s : State), decode ⟨0x07000000#32, din⟩ = .ok (.csumValidD din) ∧
    ∃ D : Record, (∀ i : Fin 8, D.byte i = din.extractLsb' (8 * i) 8) ∧
      exec (.csumValidD din) s = .next { s with
        rsp := some ⟨.done, if (D.byte 7).extractLsb' 4 4 = s.cfg.checksumFn D then 1#64 else 0#64⟩ }

/-! ### Encoder -/

/-- A frame is the 140 items of R78's table, and frame `f` of a transmission is items `140 f` to `140 f + 139`
of it, so the stream alternates from a mark (R78). -/
def Obligations.FrameFollowsTheItemTable : Prop :=
  ∀ (c : Config) (x : Record) (r : Nat),
    (frame c x).length = 140 ∧ (∀ k < 140, (frame c x)[k]? = some (tableItem c x k)) ∧
    (transmission c x r).length = 140 * (r + 1) ∧
    (∀ f ≤ r, ∀ k < 140, (transmission c x r)[140 * f + k]? = some (tableItem c x k)) ∧
    Alternates (transmission c x r)

/-- ENCODE appends REPEAT + 1 frames of the stored record to TX and writes nothing else; with LEN below 8 it
appends nothing and answers the same (R175, R176). -/
def Obligations.EncodeAppendsFramesOrNothing : Prop :=
  ∀ (len : Byte) (rep : Half) (s : State),
    IsWordOf (0x30000000#32 ||| len.setWidth 32 <<< 16 ||| rep.setWidth 32) (.encode len rep) ∧
    (len.toNat < 8 → exec (.encode len rep) s = .next { s with rsp := some ⟨.done, 0#64⟩ }) ∧
    (8 ≤ len.toNat → exec (.encode len rep) s =
      .next { s with tx := s.tx ++ transmission s.cfg s.record rep.toNat, rsp := some ⟨.done, 0#64⟩ })

/-- SEND fixes up the record, which persists, and appends REPEAT + 1 frames of the fixed-up record (R177). -/
def Obligations.SendFixesUpThenTransmits : Prop :=
  ∀ (rep : Half) (s : State), IsWordOf (0x31000000#32 ||| rep.setWidth 32) (.send rep) ∧
    ∃ R, exec (.send rep) s =
        .next { s with record := R, tx := s.tx ++ transmission s.cfg R rep.toNat, rsp := some ⟨.done, 0#64⟩ } ∧
      (R.byte 7).extractLsb' 4 4 = s.cfg.checksumFn s.record ∧
      ∀ b j, j < 8 → ¬ (b = 7 ∧ 4 ≤ j) → R.bit b j = s.record.bit b j

/-- What SEND, and ENCODE with LEN of 8 or more, append to TX with repeat count `r` is exactly 140 (r + 1) items,
9,175,040 for r = 65535, alternating from a mark, and every duration is one of the seven timing constants
(R173). -/
def Obligations.TransmissionSizeAndShape : Prop :=
  ∀ (i : Instr) (rep : Half) (s : State), (i = .send rep ∨ ∃ len : Byte, 8 ≤ len.toNat ∧ i = .encode len rep) →
    ∃ t items, exec i s = .next t ∧ t.tx = s.tx ++ items ∧
      items.length = 140 * (rep.toNat + 1) ∧ (rep = 65535#16 → items.length = 9175040) ∧
      Alternates items ∧ ∀ item ∈ items, item.dur ∈ timingConstants s.cfg

/-- The on-air length of a frame, by the number of its one bits; 140,000 microseconds for the reset image under
REF_TIMING (R262). -/
def Obligations.FrameOnAirLength : Prop :=
  (∀ (c : Config) (x : Record),
    let n1 := ((List.range 64).filter (payloadBit x)).length + 1
    totalDuration (frame c x) =
      c.tHdrMark + c.tHdrSpace + 69 * c.tBitMark + n1 * c.tOneSpace + (67 - n1) * c.tZeroSpace + c.tGap + c.tMsg) ∧
  totalDuration (frame Config.ref ⟨0x00, 0x09, 0x20, 0x50, 0x00, 0x20, 0x00, 0x50⟩) = 140000

/-- Every mark of a transmission is given the carrier of 38000 Hz and every space none (R7, R238). -/
def Obligations.MarksCarryTheCarrier : Prop :=
  ∀ (c : Config) (x : Record) (r : Nat), ∀ item ∈ transmission c x r,
    item.carrier = if item.pol = .mark then some 38000 else none

/-! ### Decoder -/

/-- DECODE succeeds with `y` exactly on the captures R200 accepts, index by index: then DEC_REC is `y`, DEC_BITS
is 64 and the result is 1. On every other capture the result is 0 and only DEC_REC and DEC_BITS, which may hold
anything, change (R200, R204), and with them the counter of free values, which is the model's own field (log 4). -/
def Obligations.DecodeAcceptsExactlyTheFrames : Prop :=
  ∀ (strict : Bool) (nbits : Half) (s : State),
    IsWordOf (flagWord 0x40000000#32 strict ||| nbits.setWidth 32) (.decode strict nbits) ∧
    (∀ y, Accepts s.cfg strict nbits.toNat s.rx y →
      exec (.decode strict nbits) s =
        .next { s with decRec := y, decBits := 64#16, rsp := some ⟨.done, 1#64⟩ }) ∧
    ((¬ ∃ y, Accepts s.cfg strict nbits.toNat s.rx y) →
      ∃ y n k, exec (.decode strict nbits) s =
        .next { s with decRec := y, decBits := n, freeIdx := k, rsp := some ⟨.done, 0#64⟩ })

/-- The checks run in the order of R200 and the first that fails names the cause; LengthError is never
produced (R201). -/
def Obligations.DecodeChecksInOrder : Prop :=
  ∀ (c : Config) (strict : Bool) (n : Nat) (rx : List Duration),
    (rx.length < 2 * n + 11 → decodeCapture c strict n rx = .error .tooShort) ∧
    (2 * n + 11 ≤ rx.length → strict = true → n ≠ 64 → decodeCapture c strict n rx = .error .strictMismatch) ∧
    (LengthOk strict n rx → ¬ HeaderOk c rx → decodeCapture c strict n rx = .error .frameError) ∧
    (LengthOk strict n rx → (∃ k < 32, ∀ b, ¬ ReadsBit c rx (2 + 2 * k) b) →
      decodeCapture c strict n rx = .error .frameError) ∧
    (LengthOk strict n rx → HeaderOk c rx → (∃ y, FirstBlockIs c rx y) →
      (∃ k < 3, ∀ b, ¬ ReadsBit c rx (66 + 2 * k) b) → decodeCapture c strict n rx = .error .frameError) ∧
    (LengthOk strict n rx → HeaderOk c rx → (∃ y, FirstBlockIs c rx y) →
      (∃ v, v ≠ 0b010#3 ∧ FooterIs c rx v) → decodeCapture c strict n rx = .error .footerMismatch) ∧
    (LengthOk strict n rx → FooterIs c rx 0b010#3 →
      (¬ GapOk c rx ∨ (∃ k < 32, ∀ b, ¬ ReadsBit c rx (74 + 2 * k) b) ∨ ¬ TrailerOk c rx) →
      decodeCapture c strict n rx = .error .frameError) ∧
    (∀ y, Accepts c false n rx y → strict = true → n = 64 → (y.byte 7).extractLsb' 4 4 ≠ c.checksumFn y →
      decodeCapture c strict n rx = .error .checksumError) ∧
    decodeCapture c strict n rx ≠ .error .lengthError

/-- Round trip: a strict DECODE of the durations of frame(X), with or without its last item and with anything
after it, succeeds with X, in every configuration that meets the matcher contract (R178). -/
def Obligations.StrictDecodeInvertsTheFrame : Prop :=
  ∀ (s : State) (x : Record), s.cfg.Contract → (x.byte 7).extractLsb' 4 4 = s.cfg.checksumFn x →
    ((∃ more, s.rx = durations (frame s.cfg x) ++ more) ∨ s.rx = (durations (frame s.cfg x)).take 139) →
      exec (.decode true 64) s = .next { s with decRec := x, decBits := 64#16, rsp := some ⟨.done, 1#64⟩ }

/-- What SEND transmits, looped back as the capture, decodes in strict mode to the record SEND left, whatever
the record was before (R177, R178, R200). -/
def Obligations.SendLoopedBackDecodesToTheRecord : Prop :=
  ∀ (rep : Half) (s : State), s.cfg.Contract →
    ∃ t items, exec (.send rep) s = .next t ∧ t.tx = s.tx ++ items ∧
      exec (.decode true 64) { t with rx := durations items } =
        .next { t with rx := durations items, decRec := t.record, decBits := 64#16, rsp := some ⟨.done, 1#64⟩ }

/-- A strict DECODE succeeds with `y` exactly when NBITS is 64, `y` has a valid checksum and the lenient DECODE
succeeds with `y` (R203). -/
def Obligations.StrictIsLenientPlusTwoChecks : Prop :=
  ∀ (n : Half) (s : State) (y : Record),
    exec (.decode true n) s = .next { s with decRec := y, decBits := 64#16, rsp := some ⟨.done, 1#64⟩ } ↔
      n = 64#16 ∧ (y.byte 7).extractLsb' 4 4 = s.cfg.checksumFn y ∧
      exec (.decode false n) s = .next { s with decRec := y, decBits := 64#16, rsp := some ⟨.done, 1#64⟩ }

/-- A capture whose footer reads as any value but 0b010 is refused in both modes (R202, R204). The counter of free
values, which may change, is the model's own field (log 4). -/
def Obligations.WrongFooterIsRefused : Prop :=
  ∀ (strict : Bool) (n : Half) (s : State) (v : BitVec 3), v ≠ 0b010#3 → FooterIs s.cfg s.rx v →
    ∃ y m k, exec (.decode strict n) s =
      .next { s with decRec := y, decBits := m, freeIdx := k, rsp := some ⟨.done, 0#64⟩ }

/-- Entries from index 140 on are never read: with NBITS at most 64, cutting them off changes nothing (R195). -/
def Obligations.EntriesFrom140AreNotRead : Prop :=
  ∀ (strict : Bool) (n : Half) (s t : State), n.toNat ≤ 64 → exec (.decode strict n) s = .next t →
    exec (.decode strict n) { s with rx := s.rx.take 140 } = .next { t with rx := s.rx.take 140 }

/-- GET_DEC returns DEC_REC, byte `i` in bits `[8i+7:8i]`, with no fixup, and changes nothing (R206). -/
def Obligations.GetDecReturnsDecRec : Prop :=
  ∀ s : State, IsWordOf 0x41000000#32 .getDec ∧
    ∃ v, exec .getDec s = .next { s with rsp := some ⟨.done, v⟩ } ∧
      ∀ i : Fin 8, v.extractLsb' (8 * i) 8 = s.decRec.byte i

/-- GET_DEC_BITS returns DEC_BITS zero-extended and changes nothing (R207). -/
def Obligations.GetDecBitsReturnsDecBits : Prop :=
  ∀ s : State, IsWordOf 0x42000000#32 .getDecBits ∧
    exec .getDecBits s = .next { s with rsp := some ⟨.done, s.decBits.setWidth 64⟩ }

/-- The windows of REF_MATCH under REF_TIMING, and that they meet the matcher contract (R191, R192). -/
def Obligations.RefMatchWindows : Prop :=
  Config.ref.Contract ∧
  ∀ d : Duration,
    (Config.ref.matchMark d 9000 = true ↔ 6787 ≤ d ∧ d ≤ 11313) ∧
    (Config.ref.matchMark d 620 = true ↔ 502 ≤ d ∧ d ≤ 838) ∧
    (Config.ref.matchSpace d 4500 = true ↔ 3337 ≤ d ∧ d ≤ 5563) ∧
    (Config.ref.matchSpace d 1600 = true ↔ 1162 ≤ d ∧ d ≤ 1938) ∧
    (Config.ref.matchSpace d 540 = true ↔ 367 ≤ d ∧ d ≤ 613) ∧
    (Config.ref.matchAtLeast d 19000 = true ↔ 14250 ≤ d)

/-! ### Whole-machine rules -/

/-- The uninterpreted bits of REC are changed by no command but RESET and SET_RAW (R22). -/
def Obligations.UninterpretedBitsArePreserved : Prop :=
  ∀ (i : Instr) (s t : State), i ≠ .reset → (∀ d, i ≠ .setRaw d) → exec i s = .next t →
    ∀ b j, uninterpreted b j = true → t.record.bit b j = s.record.bit b j

/-- REC is written only by RESET, SET_RAW, the setters, and, in its checksum nibble alone, GET_RAW, FIXUP and
SEND; every other command leaves it (R20). -/
def Obligations.OnlyTheNamedCommandsWriteRec : Prop :=
  ∀ (i : Instr) (s t : State), exec i s = .next t →
    ((i = .getRaw ∨ i = .fixup ∨ ∃ r, i = .send r) →
      ∀ b j, j < 8 → ¬ (b = 7 ∧ 4 ≤ j) → t.record.bit b j = s.record.bit b j) ∧
    (i.opcode ∉ [.reset, .setRaw, .setPower, .setMode, .setTemp, .setFan, .setSwingV, .setSleep, .setTurbo,
        .setLight, .setXfan, .getRaw, .fixup, .send] → t.record = s.record)

/-- Only ENCODE and SEND append to TX, no command removes an item, and no command reads TX back (R27, R60). -/
def Obligations.TxIsAppendOnlyAndUnread : Prop :=
  ∀ (i : Instr) (s t : State), exec i s = .next t →
    (∃ items, t.tx = s.tx ++ items ∧
      ∀ other, exec i { s with tx := other } = .next { t with tx := other ++ items }) ∧
    ((∀ l r, i ≠ .encode l r) → (∀ r, i ≠ .send r) → t.tx = s.tx)

/-- Only DECODE writes DEC_REC and DEC_BITS; only GET_DEC reads DEC_REC and only GET_DEC_BITS reads DEC_BITS
(R25, R26). -/
def Obligations.DecoderOutputIsReadOnlyByItsGetters : Prop :=
  ∀ (i : Instr) (s t : State) (y : Record) (n : Half), exec i s = .next t →
    ((∀ st k, i ≠ .decode st k) → t.decRec = s.decRec ∧ t.decBits = s.decBits) ∧
    (i ≠ .getDec → ∃ y', exec i { s with decRec := y } = .next { t with decRec := y' }) ∧
    (i ≠ .getDecBits → ∃ n', exec i { s with decBits := n } = .next { t with decBits := n' })

/-- No command writes RX, and only DECODE reads it (R28, R61). -/
def Obligations.RxIsReadOnlyByDecode : Prop :=
  ∀ (i : Instr) (s t : State), exec i s = .next t → t.rx = s.rx ∧
    ((∀ st k, i ≠ .decode st k) → ∀ rx, exec i { s with rx := rx } = .next { t with rx := rx })

/-- No step changes the configuration (R6, R33). -/
def Obligations.ConfigurationIsFixed : Prop :=
  ∀ s t : State, step s = .next t → t.cfg = s.cfg

/-- Every step keeps the invariant (R6, R28, R81, R173). -/
def Obligations.StepKeepsTheInvariant : Prop :=
  ∀ s t : State, Inv s → step s = .next t → Inv t

/-- The invariant holds after a power-on reset of any well-formed instance, and of the default one. The empty
RX, input queue and response latch there are the model's choice (logs 5, 6, 7) (R35, R250). -/
def Obligations.ResetHasTheInvariant : Prop :=
  (∀ cfg : Config, cfg.WellFormed → Inv (State.powerUp cfg)) ∧ Inv State.reset
end

