-- ==== Sys2Proof/Laws/Record.lean ====
section
/-! SUPPORT. Bytes, bits and fields of a record: what reading after writing gives, and that a record is its bits. -/

namespace Sys2Proof


@[simp] theorem Record.byte_setByte (r : Record) (i j : Fin 8) (v : Byte) :
    (r.setByte i v).byte j = if i = j then v else r.byte j := by
  fin_cases i <;> fin_cases j <;> rfl

/-- A record is its bytes. -/
theorem Record.ext_byte {r r' : Record} (h : ∀ i, r.byte i = r'.byte i) : r = r' := by
  cases r
  cases r'
  have h0 := h 0
  have h1 := h 1
  have h2 := h 2
  have h3 := h 3
  have h4 := h 4
  have h5 := h 5
  have h6 := h 6
  have h7 := h 7
  simp only [Record.byte] at h0 h1 h2 h3 h4 h5 h6 h7
  simp [*]

/-- A record is its bits. -/
theorem Record.ext_bit {r r' : Record} (h : ∀ i j, j < 8 → r.bit i j = r'.bit i j) : r = r' :=
  Record.ext_byte fun i => BitVec.eq_of_getLsbD_eq fun j hj => h i j hj

/-- Bit `j` of a byte after a field write: the value's bit inside the field, the old bit outside it. -/
theorem getLsbD_putBits {w : Nat} (b : Byte) (lo : Nat) (v : BitVec w) (j : Nat) (hj : j < 8) :
    (putBits b lo v).getLsbD j = if lo ≤ j ∧ j < lo + w then v.getLsbD (j - lo) else b.getLsbD j := by
  simp only [putBits, BitVec.getLsbD_or, BitVec.getLsbD_and, BitVec.getLsbD_not, BitVec.getLsbD_shiftLeft,
    BitVec.getLsbD_setWidth, BitVec.getLsbD_allOnes]
  by_cases h1 : lo ≤ j
  · by_cases h2 : j < lo + w
    · have : j - lo < w := by omega
      have h3 : j - lo < 8 := by omega
      have h4 : ¬ j < lo := by omega
      simp [h1, h2, hj, this, h3, h4]
    · have h3 : ¬ j - lo < w := by omega
      have h4 : v.getLsbD (j - lo) = false := BitVec.getLsbD_of_ge _ _ (by omega)
      simp [h2, hj, h3, h4]
  · have h5 : j < lo := by omega
    simp [h1, hj, h5]

/-- Bit `j` of byte `i` after a field write (R10): only the field's bits change. -/
theorem Record.bit_put {w : Nat} (r : Record) (f : RecField w) (v : BitVec w) (i : Fin 8) (j : Nat) (hj : j < 8) :
    (r.put f v).bit i j =
      if i = f.byte ∧ f.lo ≤ j ∧ j < f.lo + w then v.getLsbD (j - f.lo) else r.bit i j := by
  simp only [Record.bit, Record.put, Record.byte_setByte]
  by_cases h : f.byte = i
  · subst h
    simp [getLsbD_putBits _ _ _ _ hj]
  · have h' : ¬ i = f.byte := fun e => h e.symm
    simp [h, h']

/-- A field's bit `j` is bit `f.lo + j` of its byte. -/
theorem Record.getLsbD_get {w : Nat} (r : Record) (f : RecField w) (j : Nat) :
    (r.get f).getLsbD j = (decide (j < w) && r.bit f.byte (f.lo + j)) := by
  simp [Record.get, Record.bit, BitVec.getLsbD_extractLsb']

/-- Reading the field just written gives the value written. -/
theorem Record.get_put_same {w : Nat} (r : Record) (f : RecField w) (v : BitVec w) (h : f.lo + w ≤ 8) :
    (r.put f v).get f = v := by
  refine BitVec.eq_of_getLsbD_eq fun j hj => ?_
  rw [Record.getLsbD_get, Record.bit_put _ _ _ _ _ (by omega)]
  have h1 : f.lo ≤ f.lo + j := by omega
  have h2 : f.lo + j < f.lo + w := by omega
  simp [hj]

/-- Reading a field leaves a write to a disjoint field unseen. -/
theorem Record.get_put_other {w w' : Nat} (r : Record) (f : RecField w) (g : RecField w') (v : BitVec w)
    (hg : g.lo + w' ≤ 8) (h : g.byte ≠ f.byte ∨ g.lo + w' ≤ f.lo ∨ f.lo + w ≤ g.lo) :
    (r.put f v).get g = r.get g := by
  refine BitVec.eq_of_getLsbD_eq fun j hj => ?_
  rw [Record.getLsbD_get, Record.getLsbD_get, Record.bit_put _ _ _ _ _ (by omega)]
  rw [if_neg]
  rintro ⟨h1, h2, h3⟩
  rcases h with h | h | h
  · exact h h1
  · omega
  · omega

/-- Writing a field twice is writing it once. -/
theorem Record.put_put_same {w : Nat} (r : Record) (f : RecField w) (v v' : BitVec w) :
    (r.put f v).put f v' = r.put f v' := by
  refine Record.ext_bit fun i j hj => ?_
  simp only [Record.bit_put _ _ _ _ _ hj]
  split <;> rfl

/-- Writing the value a field already holds changes nothing. -/
theorem Record.put_get_self {w : Nat} (r : Record) (f : RecField w) : r.put f (r.get f) = r := by
  refine Record.ext_bit fun i j hj => ?_
  rw [Record.bit_put _ _ _ _ _ hj]
  split
  · next h =>
    obtain ⟨rfl, h1, h2⟩ := h
    rw [Record.getLsbD_get]
    have : f.lo + (j - f.lo) = j := by omega
    have h3 : j - f.lo < w := by omega
    simp [this, h3]
  · rfl

/-- Byte `i` of a packed record is bits `[8i+7:8i]` (R52). -/
theorem Record.extract_pack (r : Record) (i : Fin 8) : r.pack.extractLsb' (8 * i) 8 = r.byte i := by
  refine BitVec.eq_of_getLsbD_eq fun j hj => ?_
  fin_cases i <;>
    simp only [Record.pack, Record.byte, BitVec.getLsbD_append, BitVec.getLsbD_extractLsb', hj, decide_true,
      Bool.true_and] <;>
    (repeat' split) <;> first | omega | (congr 1; omega)

/-- Byte `i` of an unpacked value is its bits `[8i+7:8i]` (R52, R72). -/
theorem byte_unpack (d : DWord) (i : Fin 8) : (unpack d).byte i = d.extractLsb' (8 * i) 8 := by
  fin_cases i <;> rfl

/-- Unpacking a packed record gives it back (R52). -/
theorem unpack_pack (r : Record) : unpack r.pack = r :=
  Record.ext_byte fun i => by rw [byte_unpack, Record.extract_pack]

end Sys2Proof
end

