-- ==== Sys2Proof/Laws/Checksum.lean ====
section
/-! SUPPORT. The checksum function and the fixup of a record: what they depend on and what they write. -/

namespace Sys2Proof

/-- C2 (R150): writing the checksum nibble never changes CHECKSUM_FN, in any configuration. -/
@[simp] theorem Config.checksumFn_put_checksum (c : Config) (x : Record) (v : BitVec 4) :
    c.checksumFn (x.put RecField.checksum v) = c.checksumFn x := by
  unfold Config.checksumFn
  split
  · rfl
  · rw [Record.put_put_same]

/-- The fixup does not change CHECKSUM_FN (R152). -/
@[simp] theorem Config.checksumFn_fixup (c : Config) (x : Record) : c.checksumFn (c.fixup x) = c.checksumFn x :=
  c.checksumFn_put_checksum x _

/-- The fixup writes CHECKSUM_FN into the checksum nibble (R152). -/
theorem Config.get_checksum_fixup (c : Config) (x : Record) : (c.fixup x).get RecField.checksum = c.checksumFn x :=
  Record.get_put_same x RecField.checksum _ (by decide)

/-- The fixup keeps every bit outside the checksum nibble (R152). -/
theorem Config.bit_fixup (c : Config) (x : Record) (i : Fin 8) (j : Nat) (hj : j < 8) (h : ¬ (i = 7 ∧ 4 ≤ j)) :
    (c.fixup x).bit i j = x.bit i j := by
  rw [Config.fixup, Record.bit_put _ _ _ _ _ hj, if_neg]
  rintro ⟨h1, h2, _⟩
  exact h ⟨h1, h2⟩

/-- The fixup is idempotent (R152). -/
theorem Config.fixup_fixup (c : Config) (x : Record) : c.fixup (c.fixup x) = c.fixup x := by
  simp only [Config.fixup, Config.checksumFn_put_checksum, Record.put_put_same]

/-- The validity test is equality of the stored nibble with CHECKSUM_FN (R155, R157). -/
theorem Config.checksumValid_iff (c : Config) (x : Record) :
    c.checksumValid x = true ↔ x.get RecField.checksum = c.checksumFn x := by
  simp [Config.checksumValid]

end Sys2Proof
end

