-- ==== Sys2Proof/Laws/Capture.lean ====
section
/-! SUPPORT. What the decoder's matchers answer, in the terms of Safety.lean: an entry, one bit, a value of `n` bits, the two blocks as a record, the trailer, the strict check. -/

namespace Sys2Proof.Machine

/-- A mark test passes exactly on an entry that is there and matches (R190, R196). -/
theorem markAt_iff {c : Config} {rx : List Duration} {j : Nat} {e : Duration} :
    markAt c rx j e = true ↔ ∃ d, rx[j]? = some d ∧ c.matchMark d e = true := by
  unfold markAt
  cases rx[j]? <;> simp

/-- A space test passes exactly on an entry that is there and matches (R190, R196). -/
theorem spaceAt_iff {c : Config} {rx : List Duration} {j : Nat} {e : Duration} :
    spaceAt c rx j e = true ↔ ∃ d, rx[j]? = some d ∧ c.matchSpace d e = true := by
  unfold spaceAt
  cases rx[j]? <;> simp

/-- A minimum test passes exactly on an entry that is there and reaches it (R190, R196). -/
theorem atLeastAt_iff {c : Config} {rx : List Duration} {j : Nat} {m : Duration} :
    atLeastAt c rx j m = true ↔ ∃ d, rx[j]? = some d ∧ c.matchAtLeast d m = true := by
  unfold atLeastAt
  cases rx[j]? <;> simp

/-- The bit matcher answers `b` exactly where the entries read as `b` (R193). -/
theorem matchBit_eq_some {c : Config} {rx : List Duration} {o : Nat} {b : Bool} :
    matchBit c rx o = some b ↔ ReadsBit c rx o b := by
  unfold matchBit ReadsBit markAt spaceAt
  cases rx[o]? with
  | none => simp
  | some m =>
    cases rx[o + 1]? with
    | none => cases c.matchMark m c.tBitMark <;> simp
    | some d =>
      cases hm : c.matchMark m c.tBitMark <;> cases h1 : c.matchSpace d c.tOneSpace <;>
        cases h0 : c.matchSpace d c.tZeroSpace <;> cases b <;> simp [hm, h1, h0]

/-- Entries read as at most one bit value: a one is tested first (R193). -/
theorem ReadsBit.unique {c : Config} {rx : List Duration} {o : Nat} {b b' : Bool}
    (h : ReadsBit c rx o b) (h' : ReadsBit c rx o b') : b = b' :=
  Option.some.inj ((matchBit_eq_some.2 h).symm.trans (matchBit_eq_some.2 h'))

/-- The bit matcher fails exactly where the entries read as no bit (R193, R196). -/
theorem matchBit_eq_none {c : Config} {rx : List Duration} {o : Nat} :
    matchBit c rx o = none ↔ ∀ b, ¬ ReadsBit c rx o b := by
  rw [Option.eq_none_iff_forall_ne_some]
  exact forall_congr' fun b => not_congr matchBit_eq_some

/-- A bit is read at `o` only from entries that are there (R196). -/
theorem ReadsBit.lt_length {c : Config} {rx : List Duration} {o : Nat} {b : Bool} (h : ReadsBit c rx o b) :
    o + 1 < rx.length := by
  obtain ⟨_, d, _, hd, _⟩ := h
  exact (List.getElem?_eq_some_iff.1 hd).1

/-- The matcher of `n` bits answers `v` exactly where every pair of entries reads as `v`'s bit, least
significant first (R193). -/
theorem matchValue_eq_some {c : Config} {rx : List Duration} {n o : Nat} {v : BitVec n} :
    matchValue c rx n o = some v ↔ ∀ k < n, ReadsBit c rx (o + 2 * k) (v.getLsbD k) := by
  induction n generalizing o with
  | zero =>
    simp only [matchValue, Option.some.injEq]
    exact ⟨fun _ k hk => absurd hk (Nat.not_lt_zero k), fun _ => (BitVec.eq_nil v).symm⟩
  | succ n ih =>
    unfold matchValue
    constructor
    · intro h k hk
      split at h
      · cases h
      · next b hb =>
        split at h
        · cases h
        · next u hu =>
          cases h
          cases k with
          | zero => simpa [BitVec.getLsbD_concat] using matchBit_eq_some.1 hb
          | succ k =>
            have := ih.1 hu k (by omega)
            rw [show o + 2 * (k + 1) = o + 2 + 2 * k by omega]
            simpa [BitVec.getLsbD_concat] using this
    · intro h
      have h0 := matchBit_eq_some.2 (h 0 (by omega))
      have ht : matchValue c rx n (o + 2) = some (v.extractLsb' 1 n) := by
        refine ih.2 fun k hk => ?_
        have := h (k + 1) (by omega)
        rw [show o + 2 * (k + 1) = o + 2 + 2 * k by omega] at this
        simpa [BitVec.getLsbD_extractLsb', hk, Nat.add_comm 1 k] using this
      simp only [Nat.mul_zero, Nat.add_zero] at h0
      rw [h0]
      simp only [ht, Option.some.injEq]
      refine BitVec.eq_of_getLsbD_eq fun j hj => ?_
      rw [BitVec.getLsbD_concat]
      cases j with
      | zero => simp
      | succ j => simp [Nat.add_comm 1 j, show j < n by omega]

/-- The matcher of `n` bits fails exactly where some pair of entries reads as no bit (R193, R196). -/
theorem matchValue_eq_none {c : Config} {rx : List Duration} {n o : Nat} :
    matchValue c rx n o = none ↔ ∃ k < n, ∀ b, ¬ ReadsBit c rx (o + 2 * k) b := by
  induction n generalizing o with
  | zero => simp [matchValue]
  | succ n ih =>
    unfold matchValue
    split
    · next hb =>
      refine iff_of_true rfl ⟨0, by omega, ?_⟩
      simpa using matchBit_eq_none.1 hb
    · next b hb =>
      have hstep : (∃ k < n + 1, ∀ b, ¬ ReadsBit c rx (o + 2 * k) b) ↔
          ∃ k < n, ∀ b, ¬ ReadsBit c rx (o + 2 + 2 * k) b := by
        constructor
        · rintro ⟨k, hk, h⟩
          cases k with
          | zero => exact absurd (matchBit_eq_some.1 hb) (by simpa using h b)
          | succ k =>
            refine ⟨k, by omega, ?_⟩
            rwa [show o + 2 + 2 * k = o + 2 * (k + 1) by omega]
        · rintro ⟨k, hk, h⟩
          refine ⟨k + 1, by omega, ?_⟩
          rwa [show o + 2 * (k + 1) = o + 2 + 2 * k by omega]
      rw [hstep, ← ih]
      cases matchValue c rx n (o + 2) <;> simp

/-- The bits of the record assembled from the two block values, in time order (R51, R75, R200). -/
theorem payloadBit_assembleBlocks (v1 v2 : BitVec 32) (k : Nat) (hk : k < 32) :
    payloadBit (assembleBlocks v1 v2) k = v1.getLsbD k ∧
    payloadBit (assembleBlocks v1 v2) (32 + k) = v2.getLsbD k := by
  have hm : k % 8 < 8 := by omega
  have hd : k / 8 = 0 ∨ k / 8 = 1 ∨ k / 8 = 2 ∨ k / 8 = 3 := by omega
  have h2 : (32 + k) / 8 = 4 + k / 8 := by omega
  have h3 : (32 + k) % 8 = k % 8 := by omega
  unfold payloadBit
  rw [h2, h3]
  rcases hd with h | h | h | h <;> rw [h] <;>
    simp only [Record.bit, Record.byte, assembleBlocks, BitVec.getLsbD_extractLsb', hm, decide_true,
      Bool.true_and] <;>
    constructor <;> congr 1 <;> omega

/-- A record is its 64 payload bits (R75). -/
theorem ext_payloadBit {x y : Record} (h : ∀ p < 64, payloadBit x p = payloadBit y p) : x = y := by
  refine Record.ext_bit fun i j hj => ?_
  have := h (8 * i + j) (by omega)
  simp only [payloadBit] at this
  have h1 : (8 * i.val + j) / 8 = i.val := by omega
  have h2 : (8 * i.val + j) % 8 = j := by omega
  rw [h1, h2] at this
  simpa [Fin.ofNat, Nat.mod_eq_of_lt i.isLt] using this

/-- The header test passes exactly on a good header (R195). -/
theorem header_iff {c : Config} {rx : List Duration} :
    (markAt c rx 0 c.tHdrMark && spaceAt c rx 1 c.tHdrSpace) = true ↔ HeaderOk c rx := by
  simp only [Bool.and_eq_true, markAt_iff, spaceAt_iff, HeaderOk]
  constructor
  · rintro ⟨⟨m, h0, hm⟩, d, h1, hd⟩
    exact ⟨m, d, h0, h1, hm, hd⟩
  · rintro ⟨m, d, h0, h1, hm, hd⟩
    exact ⟨⟨m, h0, hm⟩, d, h1, hd⟩

/-- The gap test passes exactly on a good inter-block gap (R195). -/
theorem gap_iff {c : Config} {rx : List Duration} :
    (markAt c rx 72 c.tBitMark && atLeastAt c rx 73 c.tMsg) = true ↔ GapOk c rx := by
  simp only [Bool.and_eq_true, markAt_iff, atLeastAt_iff, GapOk]
  constructor
  · rintro ⟨⟨m, h0, hm⟩, d, h1, hd⟩
    exact ⟨m, d, h0, h1, hm, hd⟩
  · rintro ⟨m, d, h0, h1, hm, hd⟩
    exact ⟨⟨m, h0, hm⟩, d, h1, hd⟩

/-- The trailer test at entry 138 (R197). -/
theorem trailerOk_iff {c : Config} {rx : List Duration} : trailerOk c rx 138 = true ↔ TrailerOk c rx := by
  simp [trailerOk, TrailerOk, markAt_iff, atLeastAt_iff]

/-- The strict check passes exactly in lenient mode or on a valid checksum, and returns the record (R203). -/
theorem strictCheck_eq_ok {c : Config} {strict : Bool} {x y : Record} :
    strictCheck c strict x = .ok y ↔
      x = y ∧ (strict = true → (y.byte 7).extractLsb' 4 4 = c.checksumFn y) := by
  have hv : c.checksumValid x = true ↔ (x.byte 7).extractLsb' 4 4 = c.checksumFn x := c.checksumValid_iff x
  cases strict with
  | false => simp [strictCheck]
  | true =>
    have he : strictCheck c true x = if c.checksumValid x then .ok x else .error .checksumError := rfl
    rw [he]
    by_cases h : c.checksumValid x = true
    · rw [if_pos h]
      simp only [Except.ok.injEq, forall_const]
      exact ⟨fun e => ⟨e, e ▸ hv.1 h⟩, And.left⟩
    · rw [if_neg h]
      refine iff_of_false (by simp) ?_
      rintro ⟨rfl, e⟩
      exact h (hv.2 (e rfl))

end Sys2Proof.Machine
end

