-- ==== Sys2Proof/Laws/Decode.lean ====
section
/-! SUPPORT. The decoder and the encoder: the fields of an encoded word, the opcode map both ways, and what a successful decode says. -/

namespace Sys2Proof

@[simp] theorem opc_encode (i : Instr) : (encode i).opc = i.opcode.code := by
  refine BitVec.eq_of_getLsbD_eq fun j hj => ?_
  simp only [encode, Command.opc, BitVec.getLsbD_extractLsb', BitVec.getLsbD_append, hj, decide_true, Bool.true_and]
  rw [if_neg (by omega), if_neg (by omega)]
  congr 1
  omega

@[simp] theorem fieldA_encode (i : Instr) : (encode i).fieldA = i.wordA := by
  refine BitVec.eq_of_getLsbD_eq fun j hj => ?_
  simp only [encode, Command.fieldA, BitVec.getLsbD_extractLsb', BitVec.getLsbD_append, hj, decide_true,
    Bool.true_and]
  rw [if_neg (by omega), if_pos (by omega)]
  congr 1
  omega

@[simp] theorem imm16_encode (i : Instr) : (encode i).imm16 = i.wordImm := by
  refine BitVec.eq_of_getLsbD_eq fun j hj => ?_
  simp only [encode, Command.imm16, BitVec.getLsbD_extractLsb', BitVec.getLsbD_append, hj, decide_true,
    Bool.true_and]
  rw [if_pos (by omega)]
  congr 1
  omega

/-- The word of an encoding, field by field. Stated over the fields' values, so that a closed word is left
to evaluate whatever variables the command holds. -/
theorem cw_encode {i : Instr} {o : Opcode} {a : Byte} {imm : Half} (ho : i.opcode = o) (ha : i.wordA = a)
    (hi : i.wordImm = imm) : (encode i).cw = o.code ++ a ++ imm := by
  subst ho ha hi
  rfl

@[simp] theorem din_encode (i : Instr) : (encode i).din = i.dinOperand := rfl

/-- Field B is the high byte of IMM16 (R70). -/
theorem Command.fieldB_eq (c : Command) : c.fieldB = c.imm16.extractLsb' 8 8 := by
  refine BitVec.eq_of_getLsbD_eq fun j hj => ?_
  simp [Command.fieldB, Command.imm16, hj]

/-- Field C is the low byte of IMM16 (R70). -/
theorem Command.fieldC_eq (c : Command) : c.fieldC = c.imm16.extractLsb' 0 8 := by
  refine BitVec.eq_of_getLsbD_eq fun j hj => ?_
  simp [Command.fieldC, Command.imm16, hj]

/-- A command word is its three fields. -/
theorem Command.cw_eq (c : Command) : c.cw = c.opc ++ c.fieldA ++ c.imm16 := by
  refine BitVec.eq_of_getLsbD_eq fun j hj => ?_
  simp only [BitVec.getLsbD_append, Command.opc, Command.fieldA, Command.imm16, BitVec.getLsbD_extractLsb']
  split
  · next h => simp [h]
  · split
    · next h1 h2 =>
      have h3 : 16 + (j - 16) = j := by omega
      simp [h2, h3]
    · next h1 h2 =>
      have h3 : 24 + (j - 16 - 8) = j := by omega
      have h4 : j - 16 - 8 < 8 := by omega
      simp [h3, h4]

/-- The opcode map is one to one (R80). -/
@[simp] theorem Opcode.ofCode_code (o : Opcode) : Opcode.ofCode o.code = some o := by
  cases o <;> rfl

/-- An OPC value selects an opcode only by that opcode's number (R80). -/
theorem Opcode.code_of_ofCode {b : Byte} {o : Opcode} (h : Opcode.ofCode b = some o) : o.code = b := by
  have := List.find?_some h
  simpa using this

/-- Everything a successful decode says (R80, R81): OPC is the opcode's number, the reserved fields of its
form are 0, and the command is assembled from the fields. -/
theorem decode_ok {c : Command} {i : Instr} (h : decode c = .ok i) :
    ∃ op : Opcode, c.opc = op.code ∧ op.form.reservedZero c = true ∧ i = op.assemble c := by
  unfold decode at h
  split at h
  · cases h
  · next op hop =>
    split at h
    · next hr => exact ⟨op, (Opcode.code_of_ofCode hop).symm, hr, by cases h; rfl⟩
    · cases h

/-- When a decode succeeds: OPC is an opcode's number and the reserved fields of its form are 0 (R81). -/
theorem decode_of_opc {c : Command} {op : Opcode} (ho : c.opc = op.code) (hr : op.form.reservedZero c = true) :
    decode c = .ok (op.assemble c) := by
  simp [decode, ho, hr]

/-- An assembled command has the opcode it was assembled for. -/
@[simp] theorem Opcode.opcode_assemble (op : Opcode) (c : Command) : (op.assemble c).opcode = op := by
  cases op <;> rfl

@[simp] theorem getElem_flagField (b : Bool) : (flagField b)[0] = b := by cases b <;> rfl

@[simp] theorem highBitsZero_flagField (b : Bool) : highBitsZero (flagField b) = true := by cases b <;> rfl

/-- The decode of a word does not change with DIN outside form RAW (R70). -/
theorem Opcode.assemble_din {op : Opcode} (h : op.form ≠ .raw) (cw : Word) (d d' : DWord) :
    op.assemble ⟨cw, d⟩ = op.assemble ⟨cw, d'⟩ := by
  cases op <;> first | rfl | exact absurd rfl h

/-- A field whose bits 7..1 are 0 is the field of its bit 0 (R71). -/
theorem flagField_getElem {a : Byte} (h : highBitsZero a = true) : flagField a[0] = a := by
  revert a
  decide

end Sys2Proof
end

