-- ==== Sys2Proof/Laws/Frame.lean ====
section
/-! SUPPORT. The lists of items the encoder emits: lengths, items, durations, and the items of a transmission. -/

namespace Sys2Proof.Machine

/-- A bit group of `n` bits is `2n` items (R170). -/
@[simp] theorem length_emitBits (c : Config) {n : Nat} (v : BitVec n) : (emitBits c v).length = 2 * n := by
  simp [emitBits, emitBit, List.length_flatMap, List.map_const', Nat.mul_comm]

/-- A frame is 140 items (R171). -/
@[simp] theorem length_frame (c : Config) (x : Record) : (frame c x).length = 140 := by
  simp [frame, Config.footerBits]

/-- A transmission with repeat count `r` is `140 (r + 1)` items (R173). -/
@[simp] theorem length_transmission (c : Config) (x : Record) (r : Nat) :
    (transmission c x r).length = 140 * (r + 1) := by
  simp [transmission, List.length_flatten, Nat.mul_comm]

/-- The transmission with one repeat more has one frame more, in front (R172). -/
theorem transmission_succ (c : Config) (x : Record) (r : Nat) :
    transmission c x (r + 1) = frame c x ++ transmission c x r := by
  simp [transmission, List.replicate_succ]

/-- The transmission with repeat count 0 is one frame (R172). -/
@[simp] theorem transmission_zero (c : Config) (x : Record) : transmission c x 0 = frame c x := by
  simp [transmission]

/-- Every item of a transmission is an item of its frame (R172). -/
theorem mem_transmission {c : Config} {x : Record} {r : Nat} {item : Item} (h : item ∈ transmission c x r) :
    item ∈ frame c x := by
  obtain ⟨l, hl, hi⟩ := List.mem_flatten.1 h
  rw [List.eq_of_mem_replicate hl] at hi
  exact hi

/-- Durations keep their order and number. -/
@[simp] theorem getElem?_durations (items : List Item) (k : Nat) :
    (durations items)[k]? = items[k]?.map Item.dur := by
  simp [durations]

@[simp] theorem length_durations (items : List Item) : (durations items).length = items.length := by
  simp [durations]

theorem durations_append (a b : List Item) : durations (a ++ b) = durations a ++ durations b := by
  simp [durations]

/-- The time of two runs of items after each other is the sum of their times (R262). -/
theorem totalDuration_append (a b : List Item) : totalDuration (a ++ b) = totalDuration a + totalDuration b := by
  simp [totalDuration, durations]

/-- The time of a bit group: a bit mark and its space for each bit (R76, R262). -/
theorem totalDuration_emitBits (c : Config) {n : Nat} (v : BitVec n) :
    totalDuration (emitBits c v) =
      n * c.tBitMark + ((List.range n).map fun k => bitSpace c (v.getLsbD k)).sum := by
  have h : ∀ l : List Nat, totalDuration (l.flatMap fun k => emitBit c (v.getLsbD k)) =
      l.length * c.tBitMark + (l.map fun k => bitSpace c (v.getLsbD k)).sum := by
    intro l
    induction l with
    | nil => simp [totalDuration, durations]
    | cons k l ih =>
      rw [List.flatMap_cons, totalDuration_append, ih]
      simp [emitBit, totalDuration, durations, mark, space]
      ring
  rw [emitBits, h, List.length_range]

end Sys2Proof.Machine
end

