-- ==== Sys2Proof/Laws/State.lean ====
section
/-! SUPPORT. What each update of the state does to each field, one lemma per field per update. -/

namespace Sys2Proof.Machine

variable (s : State)

@[simp] theorem State.setRecord_record (r : Record) : (s.setRecord r).record = r := rfl
@[simp] theorem State.setRecord_decRec (r : Record) : (s.setRecord r).decRec = s.decRec := rfl
@[simp] theorem State.setRecord_decBits (r : Record) : (s.setRecord r).decBits = s.decBits := rfl
@[simp] theorem State.setRecord_tx (r : Record) : (s.setRecord r).tx = s.tx := rfl
@[simp] theorem State.setRecord_rx (r : Record) : (s.setRecord r).rx = s.rx := rfl
@[simp] theorem State.setRecord_rsp (r : Record) : (s.setRecord r).rsp = s.rsp := rfl
@[simp] theorem State.setRecord_inputs (r : Record) : (s.setRecord r).inputs = s.inputs := rfl
@[simp] theorem State.setRecord_cfg (r : Record) : (s.setRecord r).cfg = s.cfg := rfl
@[simp] theorem State.setRecord_freeIdx (r : Record) : (s.setRecord r).freeIdx = s.freeIdx := rfl

@[simp] theorem State.appendTx_record (items : List Item) : (s.appendTx items).record = s.record := rfl
@[simp] theorem State.appendTx_decRec (items : List Item) : (s.appendTx items).decRec = s.decRec := rfl
@[simp] theorem State.appendTx_decBits (items : List Item) : (s.appendTx items).decBits = s.decBits := rfl
@[simp] theorem State.appendTx_tx (items : List Item) : (s.appendTx items).tx = s.tx ++ items := rfl
@[simp] theorem State.appendTx_rx (items : List Item) : (s.appendTx items).rx = s.rx := rfl
@[simp] theorem State.appendTx_rsp (items : List Item) : (s.appendTx items).rsp = s.rsp := rfl
@[simp] theorem State.appendTx_inputs (items : List Item) : (s.appendTx items).inputs = s.inputs := rfl
@[simp] theorem State.appendTx_cfg (items : List Item) : (s.appendTx items).cfg = s.cfg := rfl
@[simp] theorem State.appendTx_freeIdx (items : List Item) : (s.appendTx items).freeIdx = s.freeIdx := rfl

@[simp] theorem State.setDecoded_record (y : Record) (bits : Half) : (s.setDecoded y bits).record = s.record := rfl
@[simp] theorem State.setDecoded_decRec (y : Record) (bits : Half) : (s.setDecoded y bits).decRec = y := rfl
@[simp] theorem State.setDecoded_decBits (y : Record) (bits : Half) : (s.setDecoded y bits).decBits = bits := rfl
@[simp] theorem State.setDecoded_tx (y : Record) (bits : Half) : (s.setDecoded y bits).tx = s.tx := rfl
@[simp] theorem State.setDecoded_rx (y : Record) (bits : Half) : (s.setDecoded y bits).rx = s.rx := rfl
@[simp] theorem State.setDecoded_rsp (y : Record) (bits : Half) : (s.setDecoded y bits).rsp = s.rsp := rfl
@[simp] theorem State.setDecoded_inputs (y : Record) (bits : Half) : (s.setDecoded y bits).inputs = s.inputs := rfl
@[simp] theorem State.setDecoded_cfg (y : Record) (bits : Half) : (s.setDecoded y bits).cfg = s.cfg := rfl
@[simp] theorem State.setDecoded_freeIdx (y : Record) (bits : Half) : (s.setDecoded y bits).freeIdx = s.freeIdx := rfl

@[simp] theorem State.freeDecoded_record : s.freeDecoded.record = s.record := rfl
@[simp] theorem State.freeDecoded_decRec : s.freeDecoded.decRec = Config.freeDecRec s.freeIdx := rfl
@[simp] theorem State.freeDecoded_decBits : s.freeDecoded.decBits = Config.freeDecBits s.freeIdx := rfl
@[simp] theorem State.freeDecoded_tx : s.freeDecoded.tx = s.tx := rfl
@[simp] theorem State.freeDecoded_rx : s.freeDecoded.rx = s.rx := rfl
@[simp] theorem State.freeDecoded_rsp : s.freeDecoded.rsp = s.rsp := rfl
@[simp] theorem State.freeDecoded_inputs : s.freeDecoded.inputs = s.inputs := rfl
@[simp] theorem State.freeDecoded_cfg : s.freeDecoded.cfg = s.cfg := rfl
@[simp] theorem State.freeDecoded_freeIdx : s.freeDecoded.freeIdx = s.freeIdx + 1 := rfl

@[simp] theorem State.setRsp_record (r : Response) : (s.setRsp r).record = s.record := rfl
@[simp] theorem State.setRsp_decRec (r : Response) : (s.setRsp r).decRec = s.decRec := rfl
@[simp] theorem State.setRsp_decBits (r : Response) : (s.setRsp r).decBits = s.decBits := rfl
@[simp] theorem State.setRsp_tx (r : Response) : (s.setRsp r).tx = s.tx := rfl
@[simp] theorem State.setRsp_rx (r : Response) : (s.setRsp r).rx = s.rx := rfl
@[simp] theorem State.setRsp_rsp (r : Response) : (s.setRsp r).rsp = some r := rfl
@[simp] theorem State.setRsp_inputs (r : Response) : (s.setRsp r).inputs = s.inputs := rfl
@[simp] theorem State.setRsp_cfg (r : Response) : (s.setRsp r).cfg = s.cfg := rfl
@[simp] theorem State.setRsp_freeIdx (r : Response) : (s.setRsp r).freeIdx = s.freeIdx := rfl

@[simp] theorem State.setInputs_record (rest : List Input) : (s.setInputs rest).record = s.record := rfl
@[simp] theorem State.setInputs_decRec (rest : List Input) : (s.setInputs rest).decRec = s.decRec := rfl
@[simp] theorem State.setInputs_decBits (rest : List Input) : (s.setInputs rest).decBits = s.decBits := rfl
@[simp] theorem State.setInputs_tx (rest : List Input) : (s.setInputs rest).tx = s.tx := rfl
@[simp] theorem State.setInputs_rx (rest : List Input) : (s.setInputs rest).rx = s.rx := rfl
@[simp] theorem State.setInputs_rsp (rest : List Input) : (s.setInputs rest).rsp = s.rsp := rfl
@[simp] theorem State.setInputs_inputs (rest : List Input) : (s.setInputs rest).inputs = rest := rfl
@[simp] theorem State.setInputs_cfg (rest : List Input) : (s.setInputs rest).cfg = s.cfg := rfl
@[simp] theorem State.setInputs_freeIdx (rest : List Input) : (s.setInputs rest).freeIdx = s.freeIdx := rfl

@[simp] theorem idle_record : (idle s).record = s.record := rfl
@[simp] theorem idle_decRec : (idle s).decRec = s.decRec := rfl
@[simp] theorem idle_decBits : (idle s).decBits = s.decBits := rfl
@[simp] theorem idle_tx : (idle s).tx = s.tx := rfl
@[simp] theorem idle_rx : (idle s).rx = s.rx := rfl
@[simp] theorem idle_rsp : (idle s).rsp = none := rfl
@[simp] theorem idle_inputs : (idle s).inputs = s.inputs := rfl
@[simp] theorem idle_cfg : (idle s).cfg = s.cfg := rfl
@[simp] theorem idle_freeIdx : (idle s).freeIdx = s.freeIdx := rfl

@[simp] theorem supplyCapture_record (rx : List Duration) : (supplyCapture rx s).record = s.record := rfl
@[simp] theorem supplyCapture_decRec (rx : List Duration) : (supplyCapture rx s).decRec = s.decRec := rfl
@[simp] theorem supplyCapture_decBits (rx : List Duration) : (supplyCapture rx s).decBits = s.decBits := rfl
@[simp] theorem supplyCapture_tx (rx : List Duration) : (supplyCapture rx s).tx = s.tx := rfl
@[simp] theorem supplyCapture_rx (rx : List Duration) : (supplyCapture rx s).rx = rx := rfl
@[simp] theorem supplyCapture_rsp (rx : List Duration) : (supplyCapture rx s).rsp = none := rfl
@[simp] theorem supplyCapture_inputs (rx : List Duration) : (supplyCapture rx s).inputs = s.inputs := rfl
@[simp] theorem supplyCapture_cfg (rx : List Duration) : (supplyCapture rx s).cfg = s.cfg := rfl
@[simp] theorem supplyCapture_freeIdx (rx : List Duration) : (supplyCapture rx s).freeIdx = s.freeIdx := rfl

@[simp] theorem powerOn_record : (powerOn s).record = s.cfg.resetImage := rfl
@[simp] theorem powerOn_decRec : (powerOn s).decRec = Config.freeDecRec s.freeIdx := rfl
@[simp] theorem powerOn_decBits : (powerOn s).decBits = Config.freeDecBits s.freeIdx := rfl
@[simp] theorem powerOn_tx : (powerOn s).tx = [] := rfl
@[simp] theorem powerOn_rx : (powerOn s).rx = s.rx := rfl
@[simp] theorem powerOn_rsp : (powerOn s).rsp = none := rfl
@[simp] theorem powerOn_inputs : (powerOn s).inputs = s.inputs := rfl
@[simp] theorem powerOn_cfg : (powerOn s).cfg = s.cfg := rfl
@[simp] theorem powerOn_freeIdx : (powerOn s).freeIdx = s.freeIdx + 1 := rfl

@[simp] theorem State.powerUp_record (cfg : Config) : (State.powerUp cfg).record = cfg.resetImage := rfl
@[simp] theorem State.powerUp_decRec (cfg : Config) : (State.powerUp cfg).decRec = ⟨0, 0, 0, 0, 0, 0, 0, 0⟩ := rfl
@[simp] theorem State.powerUp_decBits (cfg : Config) : (State.powerUp cfg).decBits = 0 := rfl
@[simp] theorem State.powerUp_tx (cfg : Config) : (State.powerUp cfg).tx = [] := rfl
@[simp] theorem State.powerUp_rx (cfg : Config) : (State.powerUp cfg).rx = [] := rfl
@[simp] theorem State.powerUp_rsp (cfg : Config) : (State.powerUp cfg).rsp = none := rfl
@[simp] theorem State.powerUp_inputs (cfg : Config) : (State.powerUp cfg).inputs = [] := rfl
@[simp] theorem State.powerUp_cfg (cfg : Config) : (State.powerUp cfg).cfg = cfg := rfl
@[simp] theorem State.powerUp_freeIdx (cfg : Config) : (State.powerUp cfg).freeIdx = 0 := rfl

end Sys2Proof.Machine
end

