-- ==== Sys2Proof/Laws/Ops.lean ====
section
/-! SUPPORT. What each shared ending of a command answers, and what a step does with each input. -/

namespace Sys2Proof.Machine

/-- `respond(v)` always goes on, and changes only the response (R10). -/
theorem respond_eq (v : DWord) (s : State) : respond v s = .next { s with rsp := some ⟨.done, v⟩ } := rfl

/-- `illegal()` always goes on, and changes only the response (R10, R81). -/
theorem illegal_eq (s : State) : illegal s = .next { s with rsp := some ⟨.illegal, 0⟩ } := rfl

/-- `fail()` always goes on with value 0; DEC_REC and DEC_BITS are free (R204). -/
theorem decodeFail_eq (s : State) :
    decodeFail s = .next { s with
      decRec := Config.freeDecRec s.freeIdx
      decBits := Config.freeDecBits s.freeIdx
      freeIdx := s.freeIdx + 1
      rsp := some ⟨.done, 0⟩ } := rfl

/-- If `respond` answers `t`, then `t` is the state with the response. -/
theorem next_of_respond {v : DWord} {s t : State} (h : respond v s = .next t) : t = s.setRsp ⟨.done, v⟩ := by
  cases h
  rfl

/-- A step with nothing presented (R244). -/
theorem step_nil {s : State} (h : s.inputs = []) : step s = .next (idle s) := by
  simp [step, h]

/-- A step with a command presented (R104). -/
theorem step_command {s : State} {c : Command} {rest : List Input} (h : s.inputs = .command c :: rest) :
    step s = runCommand c (s.setInputs rest) := by
  simp [step, h]

/-- A step with a capture supplied (R28). -/
theorem step_capture {s : State} {rx : List Duration} {rest : List Input} (h : s.inputs = .capture rx :: rest) :
    step s = .next (supplyCapture rx (s.setInputs rest)) := by
  simp [step, h]

/-- A step with a power-on (R250). -/
theorem step_powerOn {s : State} {rest : List Input} (h : s.inputs = .powerOn :: rest) :
    step s = .next (powerOn (s.setInputs rest)) := by
  simp [step, h]

/-- A command that decodes runs its meaning (R104). -/
theorem runCommand_ok {c : Command} {i : Instr} (h : decode c = .ok i) (s : State) : runCommand c s = exec i s := by
  simp [runCommand, h]

/-- A command that does not decode answers ILLEGAL (R81). -/
theorem runCommand_error {c : Command} {e : Illegal} (h : decode c = .error e) (s : State) :
    runCommand c s = illegal s := by
  simp [runCommand, h]

/-- DECODE on a capture that decodes to `y` (R200). -/
theorem execDecode_ok {strict : Bool} {n : Half} {s : State} {y : Record}
    (h : decodeCapture s.cfg strict n.toNat s.rx = .ok y) :
    execDecode strict n s = .next { s with decRec := y, decBits := 64#16, rsp := some ⟨.done, 1#64⟩ } := by
  simp [execDecode, h]
  rfl

/-- DECODE on a capture that does not decode (R204). -/
theorem execDecode_error {strict : Bool} {n : Half} {s : State} {e : DecodeCause}
    (h : decodeCapture s.cfg strict n.toNat s.rx = .error e) : execDecode strict n s = decodeFail s := by
  simp [execDecode, h]

end Sys2Proof.Machine
end

