-- ==== Sys2Proof/Laws/PerInstr.lean ====
section
/-! SUPPORT. The family LegalEncoding: the encoding of each command leaves every reserved field of its form 0 (R71, R83), one lemma per constructor of Instr, each from the lemma of its form. -/

namespace Sys2Proof

/-- Field B of an encoding with IMM16 0 is 0. -/
theorem fieldB_encode_of_imm {i : Instr} (h : i.wordImm = 0#16) : (encode i).fieldB = 0#8 := by
  rw [Command.fieldB_eq, imm16_encode, h]
  rfl

/-- Field C of an encoding with IMM16 0 is 0. -/
theorem fieldC_encode_of_imm {i : Instr} (h : i.wordImm = 0#16) : (encode i).fieldC = 0#8 := by
  rw [Command.fieldC_eq, imm16_encode, h]
  rfl

/-- Field B of an encoding whose IMM16 is `{pos, 0}` is `pos`. -/
theorem fieldB_encode_of_pos {i : Instr} {pos : Byte} (h : i.wordImm = pos ++ 0#8) : (encode i).fieldB = pos := by
  rw [Command.fieldB_eq, imm16_encode, h]
  refine BitVec.eq_of_getLsbD_eq fun j hj => ?_
  simp only [BitVec.getLsbD_extractLsb', BitVec.getLsbD_append, hj, decide_true, Bool.true_and]
  rw [if_neg (by omega)]
  congr 1
  omega

/-- Field C of an encoding whose IMM16 is `{pos, 0}` is 0. -/
theorem fieldC_encode_of_pos {i : Instr} {pos : Byte} (h : i.wordImm = pos ++ 0#8) : (encode i).fieldC = 0#8 := by
  rw [Command.fieldC_eq, imm16_encode, h]
  refine BitVec.eq_of_getLsbD_eq fun j hj => ?_
  simp only [BitVec.getLsbD_extractLsb', BitVec.getLsbD_append, hj, decide_true, Bool.true_and]
  rw [if_pos (by omega)]
  simp

namespace Laws.LegalEncoding

/-- The reserved fields of the command's form are 0 in its encoding (R71, R83). -/
def Statement (i : Instr) : Prop := i.opcode.form.reservedZero (encode i) = true

/-- Forms Z and RAW: A, B and C are all 0 (R71). -/
theorem of_noOperand {i : Instr} (hf : i.opcode.form = .z ∨ i.opcode.form = .raw) (ha : i.wordA = 0#8)
    (hi : i.wordImm = 0#16) : Statement i := by
  rcases hf with hf | hf <;>
    simp [Statement, hf, Form.reservedZero, ha, fieldB_encode_of_imm hi, fieldC_encode_of_imm hi]

/-- Form F1: `A[7:1]`, B and C are 0 (R71). -/
theorem of_flag {i : Instr} {v : Bool} (hf : i.opcode.form = .f1) (ha : i.wordA = flagField v)
    (hi : i.wordImm = 0#16) : Statement i := by
  simp [Statement, hf, Form.reservedZero, ha, fieldB_encode_of_imm hi, fieldC_encode_of_imm hi]

/-- Form V8: B and C are 0 (R71). -/
theorem of_value {i : Instr} (hf : i.opcode.form = .v8) (hi : i.wordImm = 0#16) : Statement i := by
  simp [Statement, hf, Form.reservedZero, fieldB_encode_of_imm hi, fieldC_encode_of_imm hi]

theorem nop : Statement .nop := of_noOperand (.inl rfl) rfl rfl

theorem reset : Statement .reset := of_noOperand (.inl rfl) rfl rfl

theorem setRaw (din : DWord) : Statement (.setRaw din) := of_noOperand (.inr rfl) rfl rfl

theorem getRaw : Statement .getRaw := of_noOperand (.inl rfl) rfl rfl

theorem fixup : Statement .fixup := of_noOperand (.inl rfl) rfl rfl

theorem csumCalc : Statement .csumCalc := of_noOperand (.inl rfl) rfl rfl

theorem csumValidRec : Statement .csumValidRec := of_noOperand (.inl rfl) rfl rfl

theorem csumValidD (din : DWord) : Statement (.csumValidD din) := of_noOperand (.inr rfl) rfl rfl

theorem setPower (p : Bool) : Statement (.setPower p) := of_flag (v := p) rfl rfl rfl

theorem getPower : Statement .getPower := of_noOperand (.inl rfl) rfl rfl

theorem setMode (m : Byte) : Statement (.setMode m) := of_value rfl rfl

theorem getMode : Statement .getMode := of_noOperand (.inl rfl) rfl rfl

theorem setTemp (t : Byte) : Statement (.setTemp t) := of_value rfl rfl

theorem getTemp : Statement .getTemp := of_noOperand (.inl rfl) rfl rfl

theorem setFan (f : Byte) : Statement (.setFan f) := of_value rfl rfl

theorem getFan : Statement .getFan := of_noOperand (.inl rfl) rfl rfl

theorem setSwingV (auto : Bool) (pos : Byte) : Statement (.setSwingV auto pos) := by
  have hc := fieldC_encode_of_pos (i := .setSwingV auto pos) rfl
  simp [Statement, Instr.opcode, Opcode.form, Form.reservedZero, Instr.wordA, hc]

theorem getSwingAuto : Statement .getSwingAuto := of_noOperand (.inl rfl) rfl rfl

theorem getSwingPos : Statement .getSwingPos := of_noOperand (.inl rfl) rfl rfl

theorem setSleep (v : Bool) : Statement (.setSleep v) := of_flag (v := v) rfl rfl rfl

theorem getSleep : Statement .getSleep := of_noOperand (.inl rfl) rfl rfl

theorem setTurbo (v : Bool) : Statement (.setTurbo v) := of_flag (v := v) rfl rfl rfl

theorem getTurbo : Statement .getTurbo := of_noOperand (.inl rfl) rfl rfl

theorem setLight (v : Bool) : Statement (.setLight v) := of_flag (v := v) rfl rfl rfl

theorem getLight : Statement .getLight := of_noOperand (.inl rfl) rfl rfl

theorem setXfan (v : Bool) : Statement (.setXfan v) := of_flag (v := v) rfl rfl rfl

theorem getXfan : Statement .getXfan := of_noOperand (.inl rfl) rfl rfl

theorem encode (len : Byte) (rep : Half) : Statement (.encode len rep) := rfl

theorem send (rep : Half) : Statement (.send rep) := by
  simp [Statement, Instr.opcode, Opcode.form, Form.reservedZero, Instr.wordA]

theorem decode (strict : Bool) (nbits : Half) : Statement (.decode strict nbits) := by
  simp [Statement, Instr.opcode, Opcode.form, Form.reservedZero, Instr.wordA]

theorem getDec : Statement .getDec := of_noOperand (.inl rfl) rfl rfl

theorem getDecBits : Statement .getDecBits := of_noOperand (.inl rfl) rfl rfl

end Laws.LegalEncoding

end Sys2Proof
end

