-- ==== Sys2Proof/Tests/Slice0.lean ====
section
/-! SUPPORT. Tests on fixed values: words written out from the encoding tables of 30_encoding, the ill-formed things each check refuses, vectors of 95_test_vectors (named by their table and row), and a witness for the hypotheses of each statement that has some. -/

namespace Sys2Proof.Tests

open Sys2Proof.Machine

/-! ### Helpers -/

/-- A command word from its four bytes OPC, A, B, C (R70). -/
def word (opc a b c : Byte) : Word := opc ++ a ++ b ++ c

/-- The state of a test: the reset state with the record `r`. -/
def withRec (r : Record) : State := { State.reset with record := r }

/-- The state of a test: the reset state with the capture `rx`. -/
def withRx (rx : List Duration) : State := { State.reset with rx := rx }

/-- One step in which the host presents `cw` and `din`. -/
def run (cw : Word) (din : DWord) (s : State) : Result := step { s with inputs := [.command ⟨cw, din⟩] }

/-- The record and the response after a step. -/
def seen (o : Result) : Option (Record × Option Response) :=
  match o with
  | .next t => some (t.record, t.rsp)
  | .fault _ => none
  | .refused _ => none

/-- The response after a step. -/
def answer (o : Result) : Option Response := (seen o).bind Prod.snd

/-- The durations TX holds after a step. -/
def sent (o : Result) : List Duration :=
  match o with
  | .next t => durations t.tx
  | .fault _ => []
  | .refused _ => []

/-- The decoder output after a step. -/
def decoded (o : Result) : Option (Record × Half) :=
  match o with
  | .next t => some (t.decRec, t.decBits)
  | .fault _ => none
  | .refused _ => none

/-- DONE with value `v`. -/
def done (v : DWord) : Option Response := some ⟨.done, v⟩

/-- The reset image (95). -/
def img : Record := ⟨0x00, 0x09, 0x20, 0x50, 0x00, 0x20, 0x00, 0x50⟩

/-- Durations 0 to 59 of FRAME0 (95, "Reference frame of the reset image"). -/
def frame0a : List Duration :=
  [9000, 4500, 620, 540, 620, 540, 620, 540, 620, 540, 620, 540, 620, 540, 620, 540, 620, 540, 620, 1600]
  ++ [620, 540, 620, 540, 620, 1600, 620, 540, 620, 540, 620, 540, 620, 540, 620, 540, 620, 540, 620, 540]
  ++ [620, 540, 620, 540, 620, 1600, 620, 540, 620, 540, 620, 540, 620, 540, 620, 540, 620, 540, 620, 1600]

/-- Durations 60 to 139 of FRAME0 (95). -/
def frame0b : List Duration :=
  [620, 540, 620, 1600, 620, 540, 620, 540, 620, 1600, 620, 540, 620, 19000, 620, 540, 620, 540, 620, 540]
  ++ [620, 540, 620, 540, 620, 540, 620, 540, 620, 540, 620, 540, 620, 540, 620, 540, 620, 540, 620, 540]
  ++ [620, 1600, 620, 540, 620, 540, 620, 540, 620, 540, 620, 540, 620, 540, 620, 540, 620, 540, 620, 540]
  ++ [620, 540, 620, 540, 620, 540, 620, 540, 620, 540, 620, 1600, 620, 540, 620, 1600, 620, 540, 620, 19000]

/-- FRAME0 (95). -/
def frame0 : List Duration := frame0a ++ frame0b

/-! ### Decoding: every constructor's word, written bit by bit from R71 and R80 -/

theorem test_words_whole_record :
    decode ⟨word 0b00000000#8 0b00000000#8 0b00000000#8 0b00000000#8, 0xFFFF#64⟩ = .ok .nop ∧
    decode ⟨word 0b00000001#8 0b00000000#8 0b00000000#8 0b00000000#8, 0⟩ = .ok .reset ∧
    decode ⟨word 0b00000010#8 0b00000000#8 0b00000000#8 0b00000000#8, 0x0000200250280629#64⟩ =
      .ok (.setRaw 0x0000200250280629#64) ∧
    decode ⟨word 0b00000011#8 0b00000000#8 0b00000000#8 0b00000000#8, 0⟩ = .ok .getRaw := by decide

theorem test_words_checksum :
    decode ⟨word 0b00000100#8 0b00000000#8 0b00000000#8 0b00000000#8, 0⟩ = .ok .fixup ∧
    decode ⟨word 0b00000101#8 0b00000000#8 0b00000000#8 0b00000000#8, 0⟩ = .ok .csumCalc ∧
    decode ⟨word 0b00000110#8 0b00000000#8 0b00000000#8 0b00000000#8, 0⟩ = .ok .csumValidRec ∧
    decode ⟨word 0b00000111#8 0b00000000#8 0b00000000#8 0b00000000#8, 0x4000200050200900#64⟩ =
      .ok (.csumValidD 0x4000200050200900#64) := by decide

theorem test_words_fields :
    decode ⟨word 0b00010000#8 0b00000001#8 0b00000000#8 0b00000000#8, 0⟩ = .ok (.setPower true) ∧
    decode ⟨word 0b00010001#8 0b00000000#8 0b00000000#8 0b00000000#8, 0⟩ = .ok .getPower ∧
    decode ⟨word 0b00010010#8 0b00000010#8 0b00000000#8 0b00000000#8, 0⟩ = .ok (.setMode 2#8) ∧
    decode ⟨word 0b00010011#8 0b00000000#8 0b00000000#8 0b00000000#8, 0⟩ = .ok .getMode ∧
    decode ⟨word 0b00010100#8 0b00010110#8 0b00000000#8 0b00000000#8, 0⟩ = .ok (.setTemp 22#8) ∧
    decode ⟨word 0b00010101#8 0b00000000#8 0b00000000#8 0b00000000#8, 0⟩ = .ok .getTemp ∧
    decode ⟨word 0b00010110#8 0b00001001#8 0b00000000#8 0b00000000#8, 0⟩ = .ok (.setFan 9#8) ∧
    decode ⟨word 0b00010111#8 0b00000000#8 0b00000000#8 0b00000000#8, 0⟩ = .ok .getFan ∧
    decode ⟨word 0b00011000#8 0b00000001#8 0b00001011#8 0b00000000#8, 0⟩ = .ok (.setSwingV true 11#8) ∧
    decode ⟨word 0b00011001#8 0b00000000#8 0b00000000#8 0b00000000#8, 0⟩ = .ok .getSwingAuto ∧
    decode ⟨word 0b00011010#8 0b00000000#8 0b00000000#8 0b00000000#8, 0⟩ = .ok .getSwingPos := by decide

theorem test_words_one_bit :
    decode ⟨word 0b00011011#8 0b00000001#8 0b00000000#8 0b00000000#8, 0⟩ = .ok (.setSleep true) ∧
    decode ⟨word 0b00011100#8 0b00000000#8 0b00000000#8 0b00000000#8, 0⟩ = .ok .getSleep ∧
    decode ⟨word 0b00011101#8 0b00000001#8 0b00000000#8 0b00000000#8, 0⟩ = .ok (.setTurbo true) ∧
    decode ⟨word 0b00011110#8 0b00000000#8 0b00000000#8 0b00000000#8, 0⟩ = .ok .getTurbo ∧
    decode ⟨word 0b00011111#8 0b00000000#8 0b00000000#8 0b00000000#8, 0⟩ = .ok (.setLight false) ∧
    decode ⟨word 0b00100000#8 0b00000000#8 0b00000000#8 0b00000000#8, 0⟩ = .ok .getLight ∧
    decode ⟨word 0b00100001#8 0b00000001#8 0b00000000#8 0b00000000#8, 0⟩ = .ok (.setXfan true) ∧
    decode ⟨word 0b00100010#8 0b00000000#8 0b00000000#8 0b00000000#8, 0⟩ = .ok .getXfan := by decide

theorem test_words_encoder :
    decode ⟨word 0b00110000#8 0b00001000#8 0b00000001#8 0b00000010#8, 0⟩ = .ok (.encode 8#8 0x0102#16) ∧
    decode ⟨word 0b00110001#8 0b00000000#8 0b11111111#8 0b11111111#8, 0⟩ = .ok (.send 65535#16) := by decide

theorem test_words_decoder :
    decode ⟨word 0b01000000#8 0b00000001#8 0b00000000#8 0b01000000#8, 0⟩ = .ok (.decode true 64#16) ∧
    decode ⟨word 0b01000001#8 0b00000000#8 0b00000000#8 0b00000000#8, 0⟩ = .ok .getDec ∧
    decode ⟨word 0b01000010#8 0b00000000#8 0b00000000#8 0b00000000#8, 0⟩ = .ok .getDecBits := by decide

/-- The numbering of the host's bits: CW low, DIN above it (log 12). -/
theorem test_table_words :
    decodeTableWord 32 0x14160000 = some (.setTemp 22#8) ∧
    decodeTableWord 96 (0x5000200050200900 * 2 ^ 32 + 0x02000000) = some (.setRaw 0x5000200050200900#64) ∧
    decodeTableWord 32 (0x5000200050200900 * 2 ^ 32 + 0x02000000) = some (.setRaw 0#64) ∧
    decodeTableWord 32 0x08000000 = none := by decide

/-- The words of V5, all illegal, one for each form's reserved fields and each gap of the map. -/
theorem test_illegal_words :
    ([0x08000000, 0x23000000, 0x32000000, 0x43000000, 0xFF000000, 0x00000001, 0x03010000, 0x10020000, 0x10000100,
      0x12010001, 0x14000100, 0x18020400, 0x18010401, 0x31010000, 0x40FE0040, 0x02010000] : List Word).all
      (fun cw => match decode ⟨cw, 0xFFFF#64⟩ with | .ok _ => false | .error _ => true) = true := by decide

/-- V5 rows 1 and 16 as steps: ILLEGAL, and REC is not written whatever DIN is. -/
theorem test_illegal_steps :
    seen (run 0x08000000 0 State.reset) = some (img, some ⟨.illegal, 0⟩) ∧
    seen (run 0x02010000 0xFFFFFFFFFFFFFFFF State.reset) = some (img, some ⟨.illegal, 0⟩) := by decide

/-! ### The assembler (R83, R84) -/

theorem test_assembler :
    assembleLine "SET_SWING_V 1, 99 ; generic auto" = .command ⟨0x18016300#32, 0⟩ ∧
    assembleLine "ENCODE 8, 0x0001" = .command ⟨0x30080001#32, 0⟩ ∧
    assembleLine "SET_RAW 00 09 20 50 00 20 00 40" = .command ⟨0x02000000#32, 0x4000200050200900#64⟩ ∧
    assembleLine "DECODE 1, 64" = .command ⟨0x40010040#32, 0⟩ ∧
    assembleLine "GET_DEC" = .command ⟨0x41000000#32, 0⟩ := by decide +kernel

/-- Log 14's choice: how many digits a byte of a RAW line has. -/
theorem test_assembler_byte_digits :
    assembleLine "SET_RAW 0 9 20 50 0 0020 00 40" = .command ⟨0x02000000#32, 0x4000200050200900#64⟩ ∧
    assembleLine "SET_RAW 100 09 20 50 00 20 00 40" = .malformed ∧
    assembleLine "SET_RAW 0x00 09 20 50 00 20 00 40" = .malformed := by decide +kernel

/-- Lines R83 does not have: an operand too wide, too few, or not a number; an unknown mnemonic. -/
theorem test_assembler_refuses :
    assembleLine "SET_POWER 2" = .malformed ∧ assembleLine "SET_TEMP 256" = .malformed ∧
    assembleLine "SEND" = .malformed ∧ assembleLine "SET_MODE x" = .malformed ∧
    assembleLine "SET_RAW 00 09" = .malformed ∧ assembleLine "HALT" = .malformed ∧
    assembleLine " ; only a comment" = .blank := by decide +kernel

/-! ### What the checks of WellFormed refuse -/

/-- M1 broken by a mark below its own window, M2 by a space below its own, M3 by a zero that reads as a
one, M4 by a gap below the minimum. -/
theorem test_contract_refuses :
    ¬ ({ Config.ref with tBitMark := 100 }).Contract ∧ ¬ ({ Config.ref with tHdrMark := 100 }).Contract ∧
    ¬ ({ Config.ref with tOneSpace := 1 }).Contract ∧
    ¬ ({ Config.ref with tZeroSpace := 1200 }).Contract ∧
    ¬ ({ Config.ref with tGap := 14249 }).Contract := by decide

theorem test_timing_refuses : ¬ ({ Config.ref with tGap := 2 ^ 32 }).TimingFits := by decide

theorem test_reset_image_refuses :
    ¬ ({ Config.ref with resetImage := ⟨0x01, 0x09, 0x20, 0x50, 0x00, 0x20, 0x00, 0x50⟩ }).ResetImageOk ∧
    ¬ ({ Config.ref with resetImage := ⟨0x00, 0x08, 0x20, 0x50, 0x00, 0x20, 0x00, 0x50⟩ }).ResetImageOk ∧
    ¬ ({ Config.ref with resetImage := ⟨0x00, 0x09, 0x28, 0x50, 0x00, 0x20, 0x00, 0x50⟩ }).ResetImageOk := by decide

theorem test_swing_tables_refuse_sizes :
    ¬ ({ Config.ref with swingAutoSet := [1, 7, 9] }).SwingTablesOk ∧
    ¬ ({ Config.ref with swingAutoSet := [1, 7, 9, 9] }).SwingTablesOk ∧
    ¬ ({ Config.ref with swingManualSet := [2, 3, 4, 5] }).SwingTablesOk ∧
    ¬ ({ Config.ref with swingManualSet := [2, 3, 4, 5, 5] }).SwingTablesOk := by
  refine ⟨?_, ?_, ?_, ?_⟩ <;> decide

theorem test_swing_tables_refuse_overlaps :
    ¬ ({ Config.ref with swingManualSet := [2, 3, 4, 5, 7] }).SwingTablesOk ∧
    ¬ ({ Config.ref with swingAutoCode := 2 }).SwingTablesOk ∧
    ¬ ({ Config.ref with swingLastPosCode := 11 }).SwingTablesOk := by
  refine ⟨?_, ?_, ?_⟩ <;> decide

/-- A capture of RX_MAX entries is fine, one more is not; a duration of DUR_W bits is fine, a larger one not. -/
theorem test_capture_check :
    ({ Config.ref with rxMax := 2 }).CaptureOk [1, 4294967295] ∧
    ¬ ({ Config.ref with rxMax := 2 }).CaptureOk [1, 1, 1] ∧
    ¬ Config.ref.CaptureOk [4294967296] := by decide

theorem test_ref_is_well_formed : Config.ref.WellFormed ∧ Config.ref.Contract := by decide

/-! ### Whole-record and checksum commands (V1, V2) -/

/-- V1 rows 1 to 3. -/
theorem test_nop_reset_getRaw :
    seen (run 0x00000000 0xFFFF State.reset) = some (img, done 0) ∧
    seen (run 0x01000000 0 (withRec ⟨0x29, 6, 0x28, 0x50, 2, 0x20, 0, 0x30⟩)) = some (img, done 0) ∧
    seen (run 0x03000000 0 State.reset) = some (img, done 0x5000200050200900) := by decide

/-- V1 rows 4 and 5. -/
theorem test_setRaw_then_getRaw :
    seen (run 0x02000000 0x0000200250280629 State.reset) =
      some (⟨0x29, 0x06, 0x28, 0x50, 0x02, 0x20, 0x00, 0x00⟩, done 0) ∧
    seen (run 0x03000000 0 (withRec ⟨0x29, 0x06, 0x28, 0x50, 0x02, 0x20, 0x00, 0x00⟩)) =
      some (⟨0x29, 0x06, 0x28, 0x50, 0x02, 0x20, 0x00, 0x30⟩, done 0x3000200250280629) := by decide

/-- V2 rows 1 to 7. -/
theorem test_refChecksum :
    refChecksum img = 5 ∧
    refChecksum ⟨0x29, 0x06, 0x28, 0x50, 0x02, 0x20, 0x00, 0x00⟩ = 3 ∧
    refChecksum ⟨0x52, 0x09, 0x20, 0x50, 0x01, 0x20, 0x00, 0xFF⟩ = 7 ∧
    refChecksum ⟨0x81, 0x0E, 0x90, 0x50, 0x00, 0x20, 0x00, 0x00⟩ = 11 ∧
    refChecksum ⟨0x0F, 0x0F, 0x0F, 0x0F, 0xF0, 0xF0, 0xF0, 0x00⟩ = 3 ∧
    refChecksum ⟨0, 0, 0, 0, 0, 0, 0, 0xFF⟩ = 10 ∧
    refChecksum ⟨0xFF, 0xFF, 0xFF, 0xFF, 0xFF, 0xFF, 0xFF, 0x00⟩ = 3 := by decide

/-- V2 rows 15 and 11. -/
theorem test_fixup_and_csumCalc :
    seen (run 0x04000000 0 (withRec ⟨0x29, 0x06, 0x28, 0x50, 0x02, 0x20, 0x00, 0x0F⟩)) =
      some (⟨0x29, 0x06, 0x28, 0x50, 0x02, 0x20, 0x00, 0x3F⟩, done 0) ∧
    seen (run 0x05000000 0 (withRec ⟨0x29, 0x06, 0x28, 0x50, 0x02, 0x20, 0x00, 0x00⟩)) =
      some (⟨0x29, 0x06, 0x28, 0x50, 0x02, 0x20, 0x00, 0x00⟩, done 3) := by decide

/-- V2 rows 9 and 10; E2 row 3, a flip REF_CSUM does not see. -/
theorem test_csumValidRec :
    answer (run 0x06000000 0 State.reset) = done 1 ∧
    answer (run 0x06000000 0 (withRec ⟨0x29, 0x06, 0x28, 0x50, 0x02, 0x20, 0x00, 0x00⟩)) = done 0 ∧
    answer (run 0x06000000 0 (withRec ⟨0xA9, 0x06, 0x28, 0x50, 0x02, 0x20, 0x00, 0x30⟩)) = done 1 := by decide

/-- V2 rows 16, 17 and 19. -/
theorem test_csumValidD :
    seen (run 0x07000000 0x5000200050200900 (withRec ⟨1, 2, 3, 4, 5, 6, 7, 8⟩)) =
      some (⟨1, 2, 3, 4, 5, 6, 7, 8⟩, done 1) ∧
    answer (run 0x07000000 0x4000200050200900 State.reset) = done 0 ∧
    answer (run 0x07000000 0xA000000000000000 State.reset) = done 1 := by decide

/-! ### Field commands (V1) -/

/-- V1 rows 6 and 7. -/
theorem test_setPower :
    seen (run 0x10010000 0 State.reset) = some (⟨0x08, 0x09, 0x28, 0x50, 0x00, 0x20, 0x00, 0x50⟩, done 0) ∧
    seen (run 0x10000000 0 (withRec ⟨0x08, 0x09, 0x28, 0x50, 0x00, 0x20, 0x00, 0x50⟩)) = some (img, done 0) := by
  decide

/-- E5: one power bit alone is not on. -/
theorem test_getPower :
    answer (run 0x11000000 0 (withRec ⟨0x08, 0x09, 0x28, 0x50, 0x00, 0x20, 0x00, 0x50⟩)) = done 1 ∧
    answer (run 0x11000000 0 (withRec ⟨0x08, 0x09, 0x20, 0x50, 0x00, 0x20, 0x00, 0x50⟩)) = done 0 ∧
    answer (run 0x11000000 0 (withRec ⟨0x00, 0x09, 0x28, 0x50, 0x00, 0x20, 0x00, 0x50⟩)) = done 0 := by decide

/-- V1 rows 10 and 35: Dry forces the fan; 7 is unknown, so Auto, and bit 3 of byte 0 is kept. -/
theorem test_setMode :
    seen (run 0x12020000 0 State.reset) = some (⟨0x12, 0x09, 0x20, 0x50, 0x00, 0x20, 0x00, 0x50⟩, done 0) ∧
    seen (run 0x12070000 0 (withRec ⟨0x0F, 0x00, 0x0F, 0x00, 0x00, 0x00, 0x00, 0x00⟩)) =
      some (⟨0x08, 0x00, 0x0F, 0x00, 0x00, 0x00, 0x00, 0x00⟩, done 0) := by decide

/-- V1 rows 12 and 13: the temperature under a substituted Auto, by SUBST_AUTO_LOCKS_TEMP. -/
theorem test_setMode_substituted :
    seen (run 0x12090000 0 (withRec ⟨0x01, 0x0E, 0x20, 0x50, 0x00, 0x20, 0x00, 0x50⟩)) =
      some (⟨0x00, 0x0E, 0x20, 0x50, 0x00, 0x20, 0x00, 0x50⟩, done 0) ∧
    seen (run 0x12090000 0 { withRec ⟨0x01, 0x0E, 0x20, 0x50, 0x00, 0x20, 0x00, 0x50⟩ with
        cfg := { Config.ref with substAutoLocksTemp := true } }) =
      some (⟨0x00, 0x09, 0x20, 0x50, 0x00, 0x20, 0x00, 0x50⟩, done 0) := by decide

/-- V1 row 15, mode Cool: 0 and 255 are clamped, 22 is stored as 6. -/
theorem test_setTemp_clamps :
    seen (run 0x14160000 0 (withRec ⟨0x01, 0xF9, 0, 0, 0, 0, 0, 0⟩)) = some (⟨0x01, 0xF6, 0, 0, 0, 0, 0, 0⟩, done 0) ∧
    seen (run 0x14FF0000 0 (withRec ⟨0x01, 0xF9, 0, 0, 0, 0, 0, 0⟩)) = some (⟨0x01, 0xFE, 0, 0, 0, 0, 0, 0⟩, done 0) ∧
    seen (run 0x14000000 0 (withRec ⟨0x01, 0xF9, 0, 0, 0, 0, 0, 0⟩)) = some (⟨0x01, 0xF0, 0, 0, 0, 0, 0, 0⟩, done 0) := by
  decide

/-- V1 row 16 and E3: locked to 25 in Auto, and a code 5 is no Auto. -/
theorem test_setTemp_locks :
    seen (run 0x14120000 0 (withRec ⟨0x00, 0x06, 0, 0, 0, 0, 0, 0⟩)) = some (⟨0x00, 0x09, 0, 0, 0, 0, 0, 0⟩, done 0) ∧
    seen (run 0x14120000 0 (withRec ⟨0x05, 0x06, 0, 0, 0, 0, 0, 0⟩)) = some (⟨0x05, 0x02, 0, 0, 0, 0, 0, 0⟩, done 0) := by
  decide

/-- V1 rows 18 and 20. -/
theorem test_setFan :
    seen (run 0x16090000 0 (withRec ⟨0x01, 0x09, 0, 0, 0, 0, 0, 0⟩)) = some (⟨0x31, 0x09, 0, 0, 0, 0, 0, 0⟩, done 0) ∧
    seen (run 0x16030000 0 (withRec ⟨0x12, 0x09, 0, 0, 0, 0, 0, 0⟩)) = some (⟨0x12, 0x09, 0, 0, 0, 0, 0, 0⟩, done 0) := by
  decide

/-- V1 rows 23 and 22: a code of the auto table, and a code of the other table. -/
theorem test_setSwingV_auto :
    seen (run 0x18010B00 0 State.reset) = some (⟨0x40, 0x09, 0x20, 0x50, 0x0B, 0x20, 0x00, 0x50⟩, done 0) ∧
    seen (run 0x18010200 0 State.reset) = some (⟨0x40, 0x09, 0x20, 0x50, 0x01, 0x20, 0x00, 0x50⟩, done 0) := by decide

/-- V1 rows 27 and 26; and 0x13, whose low four bits alone would be in the table. -/
theorem test_setSwingV_manual :
    seen (run 0x18000400 0 (withRec ⟨0x00, 0x09, 0x20, 0x50, 0xF3, 0x20, 0x00, 0x50⟩)) =
      some (⟨0x00, 0x09, 0x20, 0x50, 0xF4, 0x20, 0x00, 0x50⟩, done 0) ∧
    seen (run 0x18000700 0 State.reset) = some (img, done 0) ∧
    seen (run 0x18001300 0 State.reset) = some (img, done 0) := by decide

/-- V1 rows 28 to 31. -/
theorem test_one_bit_setters :
    seen (run 0x1B010000 0 State.reset) = some (⟨0x80, 0x09, 0x20, 0x50, 0x00, 0x20, 0x00, 0x50⟩, done 0) ∧
    seen (run 0x1D010000 0 State.reset) = some (⟨0x00, 0x09, 0x30, 0x50, 0x00, 0x20, 0x00, 0x50⟩, done 0) ∧
    seen (run 0x1F000000 0 State.reset) = some (⟨0x00, 0x09, 0x00, 0x50, 0x00, 0x20, 0x00, 0x50⟩, done 0) ∧
    seen (run 0x21010000 0 State.reset) = some (⟨0x00, 0x09, 0xA0, 0x50, 0x00, 0x20, 0x00, 0x50⟩, done 0) := by decide

/-- V1 row 32, and the other value of each bit. -/
theorem test_one_bit_getters :
    answer (run 0x1C000000 0 State.reset) = done 0 ∧ answer (run 0x1C000000 0 (withRec ⟨0x80, 0, 0, 0, 0, 0, 0, 0⟩)) = done 1 ∧
    answer (run 0x1E000000 0 State.reset) = done 0 ∧ answer (run 0x1E000000 0 (withRec ⟨0, 0, 0x10, 0, 0, 0, 0, 0⟩)) = done 1 ∧
    answer (run 0x20000000 0 State.reset) = done 1 ∧ answer (run 0x20000000 0 (withRec ⟨0, 0, 0xDF, 0, 0, 0, 0, 0⟩)) = done 0 ∧
    answer (run 0x22000000 0 State.reset) = done 0 ∧ answer (run 0x22000000 0 (withRec ⟨0, 0, 0x80, 0, 0, 0, 0, 0⟩)) = done 1 := by
  decide

/-- V1 rows 33, 34 and 36: out-of-domain codes come back as stored. -/
theorem test_getters_as_stored :
    seen (run 0x13000000 0 (withRec ⟨0x0F, 0x00, 0x0F, 0, 0, 0, 0, 0x0F⟩)) =
      some (⟨0x0F, 0x00, 0x0F, 0, 0, 0, 0, 0x0F⟩, done 7) ∧
    answer (run 0x15000000 0 (withRec ⟨0x0F, 0x0F, 0, 0, 0, 0, 0, 0⟩)) = done 31 ∧
    answer (run 0x1A000000 0 (withRec ⟨0, 0, 0, 0, 0xFD, 0, 0, 0⟩)) = done 13 := by decide

/-- E4 and E6. -/
theorem test_getFan_and_getSwingAuto :
    answer (run 0x17000000 0 (withRec ⟨0x12, 0x09, 0, 0, 0, 0, 0, 0⟩)) = done 1 ∧
    answer (run 0x19000000 0 (withRec ⟨0x40, 0x09, 0, 0, 0x01, 0, 0, 0⟩)) = done 1 := by decide

/-! ### Encoder (V3) -/

/-- V3 row 1: ENCODE 8, 0 sends FRAME0 and keeps REC. -/
theorem test_encode_frame0 :
    sent (run 0x30080000 0 State.reset) = frame0 ∧
    seen (run 0x30080000 0 State.reset) = some (img, done 0) := by decide +kernel

/-- V3 rows 2, 4 and 5: LEN below 8 sends nothing, 255 sends. -/
theorem test_encode_len :
    seen (run 0x30040000 0 State.reset) = some (img, done 0) ∧ sent (run 0x30040000 0 State.reset) = [] ∧
    sent (run 0x30070000 0 State.reset) = [] ∧ sent (run 0x30FF0000 0 State.reset) = frame0 := by decide +kernel

/-- V3 row 9: SEND fixes up, which persists; items 131 and 133 are ones, 137 a zero; the whole is 145,300 µs. -/
theorem test_send_fixes_up :
    seen (run 0x31000000 0 (withRec ⟨0x29, 0x06, 0x28, 0x50, 0x02, 0x20, 0x00, 0x00⟩)) =
      some (⟨0x29, 0x06, 0x28, 0x50, 0x02, 0x20, 0x00, 0x30⟩, done 0) ∧
    ([131, 133, 135, 137].map fun k =>
      (sent (run 0x31000000 0 (withRec ⟨0x29, 0x06, 0x28, 0x50, 0x02, 0x20, 0x00, 0x00⟩)))[k]?) =
      [some 1600, some 1600, some 540, some 540] ∧
    (sent (run 0x31000000 0 (withRec ⟨0x29, 0x06, 0x28, 0x50, 0x02, 0x20, 0x00, 0x00⟩))).sum = 145300 := by
  decide +kernel

/-- V3 row 7: SEND 2 sends three frames. -/
theorem test_send_repeats : sent (run 0x31000002 0 State.reset) = frame0 ++ frame0 ++ frame0 := by decide +kernel

/-- The encoder's frame of the reset image is FRAME0, 140,000 µs long (R262). -/
theorem test_frame0 : durations (frame Config.ref img) = frame0 ∧ frame0.sum = 140000 := by decide +kernel

/-! ### Decoder (V4) -/

/-- V4 rows 1, 3 and 9: FRAME0 decodes, without its last item too, and with NBITS 0. -/
theorem test_decode_frame0 :
    decoded (run 0x40010040 0 (withRx frame0)) = some (img, 64) ∧
    answer (run 0x40010040 0 (withRx frame0)) = done 1 ∧
    answer (run 0x40010040 0 (withRx (frame0.take 139))) = done 1 ∧
    decoded (run 0x40000000 0 (withRx frame0)) = some (img, 64) := by decide +kernel

/-- V4 rows 7, 13, 21, 28 and 35, and a failed decode leaves REC. -/
theorem test_decode_failures :
    answer (run 0x40010041 0 (withRx frame0)) = done 0 ∧
    answer (run 0x40010040 0 (withRx (frame0.set 0 5000))) = done 0 ∧
    seen (run 0x40010040 0 (withRx (frame0.set 3 1600))) = some (img, done 0) ∧
    answer (run 0x40000040 0 (withRx (frame0.set 69 540))) = done 0 ∧
    answer (run 0x40010040 0 (withRx (frame0.set 139 14249))) = done 0 := by decide +kernel

/-- The labels of V4 rows 4, 6, 10, 12, 21, 28, 29, 31 and 37. -/
theorem test_decode_causes :
    decodeCapture Config.ref true 64 (frame0.take 138) = .error .tooShort ∧
    decodeCapture Config.ref true 63 frame0 = .error .strictMismatch ∧
    decodeCapture Config.ref false 0 (frame0.take 11) = .error .frameError ∧
    decodeCapture Config.ref true 63 (frame0.take 10) = .error .tooShort ∧
    decodeCapture Config.ref true 64 (frame0.set 3 1600) = .error .checksumError ∧
    decodeCapture Config.ref false 64 (frame0.set 69 540) = .error .footerMismatch ∧
    decodeCapture Config.ref false 64 (frame0.set 69 700) = .error .frameError ∧
    decodeCapture Config.ref false 64 (frame0.set 73 14249) = .error .frameError ∧
    decodeCapture Config.ref false 64 ((frame0.set 3 700).set 69 540) = .error .frameError := by decide +kernel

/-- V4 rows 17, 19 and 20: both ends of the bit mark, zero and one windows. -/
theorem test_decode_windows :
    ([501, 502, 838, 839].map fun d => answer (run 0x40010040 0 (withRx (frame0.set 2 d)))) =
      [done 0, done 1, done 1, done 0] ∧
    ([366, 367, 613, 614, 1161, 1162, 1938, 1939].map fun d => answer (run 0x40000040 0 (withRx (frame0.set 3 d)))) =
      [done 0, done 1, done 1, done 0, done 0, done 1, done 1, done 0] := by decide +kernel

/-- R206 and R207, by their examples. -/
theorem test_getDec :
    answer (run 0x41000000 0 { State.reset with decRec := img }) = done 0x5000200050200900 ∧
    answer (run 0x42000000 0 { State.reset with decBits := 64 }) = done 64 := by decide

/-- The host's two definitions, as the host uses them. -/
theorem test_withFetchWord :
    step (State.reset.withFetchWord 32 0x12020000) = exec (.setMode 2) State.reset := by rfl

/-! ### Witnesses: concrete values that meet the hypotheses of the statements -/

theorem test_witness_EncodeOfDecodeIsTheWord :
    decode ⟨0x12FF0000#32, 7⟩ = .ok (.setMode 255) ∧
    (decode ⟨0x07000000#32, 7⟩ = .ok (.csumValidD 7) ∧ (Instr.csumValidD 7).opcode.form = .raw) := by decide

theorem test_witness_DinMattersOnlyInFormRaw :
    (0x40010040#32).extractLsb' 24 8 ≠ 0x02#8 ∧ (0x40010040#32).extractLsb' 24 8 ≠ 0x07#8 := by decide

theorem test_witness_StepRunsTheDecodedCommand :
    (State.reset.withFetchWord 32 0x14160000).inputs = .command ⟨0x14160000#32, 0⟩ :: [] ∧
    decode ⟨0x14160000#32, 0⟩ = .ok (.setTemp 22) := by decide

/-- An unassigned opcode and a reserved bit: neither fits the table. -/
theorem test_witness_IllegalCommandChangesNothing :
    (State.reset.withFetchWord 32 0x08000000).inputs = .command ⟨0x08000000#32, 0⟩ :: [] ∧
    ¬ FitsTable 0x08000000#32 ∧ ¬ FitsTable 0x10020000#32 := by
  unfold FitsTable
  decide

theorem test_witness_StepWithoutACommandKeepsTheBlock :
    State.reset.inputs = [] ∧
    ({ State.reset with inputs := [.capture frame0] } : State).inputs = .capture frame0 :: [] := ⟨rfl, rfl⟩

theorem test_witness_PowerOnTakesTheResetState :
    ({ State.reset with inputs := [.powerOn] } : State).inputs = .powerOn :: [] := rfl

theorem test_witness_ResetWritesTheImageOnly :
    State.reset.cfg.resetImage = img ∧ State.reset.cfg.checksum = .ref := ⟨rfl, rfl⟩

theorem test_witness_GetRawTwiceIsGetRawOnce : ∃ t, exec .getRaw State.reset = .next t := ⟨_, rfl⟩

/-- A position of each table (its last code), and one of the other table, in both modes. -/
theorem test_witness_SetSwingVChecksItsTable :
    (11#4 ∈ State.reset.cfg.swingAutoSet ∧ (11#4).setWidth 8 = 11#8) ∧
    (6#4 ∈ State.reset.cfg.swingManualSet ∧ (6#4).setWidth 8 = 6#8) ∧
    (∀ p : BitVec 4, p ∈ State.reset.cfg.swingAutoSet → p.setWidth 8 ≠ 2#8) ∧
    (∀ p : BitVec 4, p ∈ State.reset.cfg.swingManualSet → p.setWidth 8 ≠ 0x12#8) := by decide

theorem test_witness_FixupWritesTheChecksumNibble : ∃ t, exec .fixup State.reset = .next t := ⟨_, rfl⟩

/-- A command presented that decodes and one that does not. -/
theorem test_witness_EveryCommandCompletes :
    (State.reset.withFetchWord 32 0x04000000).inputs = .command ⟨0x04000000#32, 0⟩ :: [] ∧
    (State.reset.withFetchWord 32 0xFF000000).inputs = .command ⟨0xFF000000#32, 0⟩ :: [] := ⟨rfl, rfl⟩

theorem test_witness_AssembledLinesAreLegal :
    assembleLine "SET_SWING_V 1, 255" = .command ⟨0x1801FF00#32, 0⟩ := by decide +kernel

/-- P4's clause with the default SUBST_AUTO_LOCKS_TEMP, and each frame clause on a command that is another lock's
own setter, in a state whose mode is Auto with temperature code 14, or Dry with fan 3. -/
theorem test_witness_LocksActWhenASetterRuns :
    State.reset.cfg.substAutoLocksTemp = false ∧
    ((∃ u, exec (.setFan 7) (withRec ⟨0x00, 0x0E, 0, 0, 0, 0, 0, 0⟩) = .next u) ∧
      (Instr.setFan 7).opcode ∉ ([.reset, .setRaw, .setMode, .setTemp] : List Opcode)) ∧
    ((∃ u, exec (.setTemp 40) (withRec ⟨0x32, 0, 0, 0, 0, 0, 0, 0⟩) = .next u) ∧
      (Instr.setTemp 40).opcode ∉ ([.reset, .setRaw, .setMode, .setFan] : List Opcode)) :=
  ⟨rfl, ⟨⟨_, rfl⟩, by decide⟩, ⟨_, rfl⟩, by decide⟩

/-- Two records that differ in the checksum nibble alone. -/
theorem test_witness_ChecksumIgnoresItsOwnNibble :
    ∀ b j, j < 8 → ¬ (b = 7 ∧ 4 ≤ j) →
      (⟨1, 2, 3, 4, 5, 6, 7, 0x08⟩ : Record).bit b j = (⟨1, 2, 3, 4, 5, 6, 7, 0xF8⟩ : Record).bit b j := by
  intro b j hj
  revert b
  decide +revert

theorem test_witness_RefChecksumIsTheNibbleSum : Config.ref.checksum = .ref := rfl

theorem test_witness_CsumValidRecComparesTheNibble :
    (Instr.fixup = .fixup ∨ Instr.fixup = .getRaw ∨ ∃ r, Instr.fixup = .send r) ∧
    (Instr.getRaw = .fixup ∨ Instr.getRaw = .getRaw ∨ ∃ r, Instr.getRaw = .send r) ∧
    (Instr.send 0 = .fixup ∨ Instr.send 0 = .getRaw ∨ ∃ r, Instr.send 0 = .send r) :=
  ⟨.inl rfl, .inr (.inl rfl), .inr (.inr ⟨0, rfl⟩)⟩

/-- LEN at the two sides of REC_LEN. -/
theorem test_witness_EncodeAppendsFramesOrNothing : (7#8).toNat < 8 ∧ 8 ≤ (8#8).toNat := by decide

/-- Item indexes and frames at the ends of their ranges. -/
theorem test_witness_FrameFollowsTheItemTable :
    (frame Config.ref img)[0]? = some (mark 9000) ∧ (frame Config.ref img)[139]? = some (space 19000) ∧
    (transmission Config.ref img 1)[140 * 1 + 139]? = some (space 19000) := by decide +kernel

/-- SEND, and ENCODE with LEN at its boundary, with the largest repeat count. -/
theorem test_witness_TransmissionSizeAndShape :
    (Instr.send 65535 = .send 65535 ∨ ∃ len : Byte, 8 ≤ len.toNat ∧ Instr.send 65535 = .encode len 65535) ∧
    (Instr.encode 8 65535 = .send 65535 ∨ ∃ len : Byte, 8 ≤ len.toNat ∧ Instr.encode 8 65535 = .encode len 65535) :=
  ⟨.inl rfl, .inr ⟨8, by decide, rfl⟩⟩

theorem test_witness_MarksCarryTheCarrier :
    mark 9000 ∈ transmission Config.ref img 0 ∧ space 19000 ∈ transmission Config.ref img 0 := by decide +kernel

/-! The captures of the decoder's witnesses. -/

theorem header_of {rx : List Duration}
    (h : (markAt Config.ref rx 0 9000 && spaceAt Config.ref rx 1 4500) = true) : HeaderOk Config.ref rx := header_iff.1 h

theorem first_of {rx : List Duration} {y : Record}
    (h : ∀ k < 32, matchBit Config.ref rx (2 + 2 * k) = some (payloadBit y k)) : FirstBlockIs Config.ref rx y :=
  fun k hk => matchBit_eq_some.1 (h k hk)

theorem footer_of {rx : List Duration} {v : BitVec 3}
    (h : ∀ k < 3, matchBit Config.ref rx (66 + 2 * k) = some (v.getLsbD k)) : FooterIs Config.ref rx v :=
  fun k hk => matchBit_eq_some.1 (h k hk)

theorem second_of {rx : List Duration} {y : Record}
    (h : ∀ k < 32, matchBit Config.ref rx (74 + 2 * k) = some (payloadBit y (32 + k))) : SecondBlockIs Config.ref rx y :=
  fun k hk => matchBit_eq_some.1 (h k hk)

theorem noBit_of {rx : List Duration} {o : Nat} (h : matchBit Config.ref rx o = none) :
    ∀ b, ¬ ReadsBit Config.ref rx o b := matchBit_eq_none.1 h

/-- FRAME0 is accepted as the reset image in strict mode, and so it is without its last entry: both sides of
the optional trailing space. -/
theorem test_witness_DecodeAcceptsExactlyTheFrames :
    Accepts Config.ref true 64 frame0 img ∧ Accepts Config.ref true 64 (frame0.take 139) img :=
  ⟨⟨⟨by decide +kernel, fun _ => rfl⟩, header_of (by decide +kernel), first_of (by decide +kernel), footer_of (by decide +kernel),
    gap_iff.1 (by decide +kernel), second_of (by decide +kernel), trailerOk_iff.1 (by decide +kernel), fun _ => by decide⟩,
   ⟨⟨by decide +kernel, fun _ => rfl⟩, header_of (by decide +kernel), first_of (by decide +kernel), footer_of (by decide +kernel),
    gap_iff.1 (by decide +kernel), second_of (by decide +kernel), trailerOk_iff.1 (by decide +kernel), fun _ => by decide⟩⟩

/-- FRAME0 without its last two entries is accepted as no record. -/
theorem test_witness_DecodeAcceptsExactlyTheFrames_no_record :
    ¬ ∃ y, Accepts Config.ref true 64 (frame0.take 138) y := by
  rintro ⟨y, h⟩
  exact absurd h.length.1 (by decide +kernel)

/-- Steps 1 to 3, each at the boundary of its clause. -/
theorem test_witness_DecodeChecksInOrder_length_and_header :
    (frame0.take 138).length < 2 * 64 + 11 ∧
    (2 * 64 + 11 ≤ (frame0.take 139).length ∧ 2 * 63 + 11 ≤ frame0.length ∧ (63 : Nat) ≠ 64) ∧
    (LengthOk true 64 frame0 ∧ ¬ HeaderOk Config.ref (frame0.set 0 6786)) :=
  ⟨by decide +kernel, by decide +kernel, ⟨by decide +kernel, fun _ => rfl⟩,
   fun h => absurd (header_iff.2 h) (by decide +kernel)⟩

/-- Step 4 at the last bit of block 1, step 5 at the last bit of the footer, with a good block 1 before it. -/
theorem test_witness_DecodeChecksInOrder_bits :
    (∃ k < 32, ∀ b, ¬ ReadsBit Config.ref (frame0.set 65 700) (2 + 2 * k) b) ∧
    (HeaderOk Config.ref (frame0.set 71 700) ∧ (∃ y, FirstBlockIs Config.ref (frame0.set 71 700) y) ∧
      ∃ k < 3, ∀ b, ¬ ReadsBit Config.ref (frame0.set 71 700) (66 + 2 * k) b) :=
  ⟨⟨31, by decide, noBit_of (by decide +kernel)⟩, header_of (by decide +kernel),
   ⟨img, first_of (by decide +kernel)⟩, ⟨2, by decide, noBit_of (by decide +kernel)⟩⟩

/-- A footer that reads as 0. -/
theorem test_witness_DecodeChecksInOrder_footer :
    LengthOk false 64 (frame0.set 69 540) ∧ HeaderOk Config.ref (frame0.set 69 540) ∧
    (∃ y, FirstBlockIs Config.ref (frame0.set 69 540) y) ∧ ∃ v, v ≠ 0b010#3 ∧ FooterIs Config.ref (frame0.set 69 540) v :=
  ⟨⟨by decide +kernel, fun h => by cases h⟩, header_of (by decide +kernel), ⟨img, first_of (by decide +kernel)⟩,
   0#3, by decide, footer_of (by decide +kernel)⟩

/-- Steps 6 to 8: a gap one short, the last bit of block 2, a trailing space one short. -/
theorem test_witness_DecodeChecksInOrder_second_half :
    (FooterIs Config.ref (frame0.set 73 14249) 0b010#3 ∧ ¬ GapOk Config.ref (frame0.set 73 14249)) ∧
    (∃ k < 32, ∀ b, ¬ ReadsBit Config.ref (frame0.set 137 700) (74 + 2 * k) b) ∧
    ¬ TrailerOk Config.ref (frame0.set 139 14249) :=
  ⟨⟨footer_of (by decide +kernel), fun h => absurd (gap_iff.2 h) (by decide +kernel)⟩,
   ⟨31, by decide, noBit_of (by decide +kernel)⟩, fun h => absurd (trailerOk_iff.2 h) (by decide +kernel)⟩

/-- Step 9: E9's frame, whose checksum nibble is 4 where 5 is right. -/
theorem test_witness_DecodeChecksInOrder_checksum :
    Accepts Config.ref false 64 (frame0.set 131 540) ⟨0x00, 0x09, 0x20, 0x50, 0x00, 0x20, 0x00, 0x40⟩ ∧
    ((⟨0x00, 0x09, 0x20, 0x50, 0x00, 0x20, 0x00, 0x40⟩ : Record).byte 7).extractLsb' 4 4 ≠
      Config.ref.checksumFn ⟨0x00, 0x09, 0x20, 0x50, 0x00, 0x20, 0x00, 0x40⟩ :=
  ⟨⟨⟨by decide +kernel, fun h => by cases h⟩, header_of (by decide +kernel), first_of (by decide +kernel),
    footer_of (by decide +kernel), gap_iff.1 (by decide +kernel), second_of (by decide +kernel),
    trailerOk_iff.1 (by decide +kernel), fun h => by cases h⟩, by decide⟩

/-- FRAME0 followed by more, and FRAME0 without its last entry. -/
theorem test_witness_StrictDecodeInvertsTheFrame :
    (withRx (frame0 ++ [1, 2])).cfg.Contract ∧ (img.byte 7).extractLsb' 4 4 = (withRx frame0).cfg.checksumFn img ∧
    (withRx (frame0 ++ [1, 2])).rx = durations (frame (withRx frame0).cfg img) ++ [1, 2] ∧
    (withRx (frame0.take 139)).rx = (durations (frame (withRx frame0).cfg img)).take 139 :=
  ⟨by decide, by decide, by decide +kernel, by decide +kernel⟩

theorem test_witness_SendLoopedBackDecodesToTheRecord : State.reset.cfg.Contract := by decide

/-- Both sides of the equivalence hold of FRAME0, and DECODE 0, 64 alone of E9's frame. -/
theorem test_witness_StrictIsLenientPlusTwoChecks :
    answer (exec (.decode true 64) (withRx frame0)) = done 1 ∧ answer (exec (.decode false 64) (withRx frame0)) = done 1 ∧
    answer (exec (.decode true 64) (withRx (frame0.set 131 540))) = done 0 ∧
    answer (exec (.decode false 64) (withRx (frame0.set 131 540))) = done 1 := by decide +kernel

/-- A footer of 0 and one of 7. -/
theorem test_witness_WrongFooterIsRefused :
    FooterIs (withRx (frame0.set 69 540)).cfg (withRx (frame0.set 69 540)).rx 0#3 ∧
    FooterIs Config.ref ((frame0.set 67 1600).set 71 1600) 7#3 :=
  ⟨footer_of (by decide +kernel), footer_of (by decide +kernel)⟩

/-- NBITS 64 and a capture of 280 entries, which decodes. -/
theorem test_witness_EntriesFrom140AreNotRead :
    (64#16).toNat ≤ 64 ∧ answer (exec (.decode true 64) (withRx (frame0 ++ frame0))) = done 1 := by decide +kernel

theorem test_witness_UninterpretedBitsArePreserved :
    Instr.setTemp 22 ≠ .reset ∧ (∀ d, Instr.setTemp 22 ≠ .setRaw d) ∧ (∃ t, exec (.setTemp 22) State.reset = .next t) ∧
    uninterpreted 1 4 = true ∧ uninterpreted 7 3 = true ∧ uninterpreted 7 4 = false :=
  ⟨by decide, nofun, ⟨_, rfl⟩, by decide, by decide, by decide⟩

theorem test_witness_OnlyTheNamedCommandsWriteRec :
    (∃ t, exec .fixup State.reset = .next t) ∧ (∃ t, exec .getMode State.reset = .next t) ∧
    Instr.getMode.opcode ∉ ([.reset, .setRaw, .setPower, .setMode, .setTemp, .setFan, .setSwingV, .setSleep, .setTurbo,
      .setLight, .setXfan, .getRaw, .fixup, .send] : List Opcode) := ⟨⟨_, rfl⟩, ⟨_, rfl⟩, by decide⟩

/-- A command that appends and one that does not, which is none of the excluded ones either. -/
theorem test_witness_TxIsAppendOnlyAndUnread :
    (∃ t, exec (.send 0) State.reset = .next t) ∧ (∃ t, exec .getDec State.reset = .next t) ∧
    (∀ l r, Instr.getMode ≠ .encode l r) ∧ (∀ r, Instr.getMode ≠ .send r) ∧ (∀ st k, Instr.getMode ≠ .decode st k) ∧
    Instr.getMode ≠ .getDec ∧ Instr.getMode ≠ .getDecBits :=
  ⟨⟨_, rfl⟩, ⟨_, rfl⟩, nofun, nofun,
   nofun, by decide, by decide⟩

theorem test_witness_DecoderOutputIsReadOnlyByItsGetters :
    ∃ t, exec .getMode State.reset = .next t := ⟨_, rfl⟩

theorem test_witness_RxIsReadOnlyByDecode : ∃ t, exec .getMode (withRx frame0) = .next t := ⟨_, rfl⟩

theorem test_witness_ConfigurationIsFixed : ∃ t, step (State.reset.withFetchWord 32 0x31000000) = .next t := ⟨_, rfl⟩

/-- A state with the invariant that holds a capture, a response and two inputs, and takes a step. -/
theorem test_witness_StepKeepsTheInvariant :
    Inv { withRx [9000] with tx := [], rsp := some ⟨.illegal, 0⟩, inputs := [.capture [1, 2], .powerOn] } ∧
    ∃ t, step { withRx [9000] with tx := [], rsp := some ⟨.illegal, 0⟩, inputs := [.capture [1, 2], .powerOn] } =
      .next t := by
  refine ⟨⟨by decide, ⟨rfl, ?_, ?_⟩, by decide, ?_, ?_⟩, ⟨_, rfl⟩⟩
  · intro k item h
    cases h
  · intro item h
    cases h
  · intro i hi
    rcases List.mem_cons.1 hi with rfl | hi
    · show Config.ref.CaptureOk [1, 2]
      decide
    · rcases List.mem_cons.1 hi with rfl | hi
      · exact trivial
      · cases hi
  · intro r h _
    cases h
    rfl

theorem test_witness_ResetHasTheInvariant :
    Config.ref.WellFormed ∧ ({ Config.ref with rxMax := 0, substAutoLocksTemp := true }).WellFormed := by decide

end Sys2Proof.Tests
end

namespace Sys2Proof.Machine

/-! ### What a command can do to the block

Every command ends with `respond`, and before it does, it makes one of five kinds of change. -/

/-- The changes a command can make before it responds: from `s` the block goes to the second state. -/
inductive CommandEffect (s : State) : State → Prop
  /-- The state stays (the getters, the checksum queries, NOP). -/
  | kept : CommandEffect s s
  /-- REC takes a new value (R20). -/
  | recordWritten (r : Record) : CommandEffect s (s.setRecord r)
  /-- REC takes a value, and its frames are appended to TX; ENCODE writes the record that is there (R175, R177). -/
  | transmitted (r : Record) (rep : Half) : CommandEffect s (transmit rep (s.setRecord r))
  /-- A DECODE succeeds (R200). -/
  | decoded (y : Record) (bits : Half) : CommandEffect s (s.setDecoded y bits)
  /-- A DECODE fails (R204). -/
  | decodeFailed : CommandEffect s s.freeDecoded

/-- DECODE responds after writing the decoder output, or after leaving it free (R200, R204). -/
theorem execDecode_eq_respond (strict : Bool) (nbits : Half) (s : State) :
    ∃ u v, CommandEffect s u ∧ execDecode strict nbits s = respond v u := by
  cases h : decodeCapture s.cfg strict nbits.toNat s.rx with
  | ok y => exact ⟨_, _, .decoded y 64#16, execDecode_ok h⟩
  | error e => exact ⟨_, _, .decodeFailed, execDecode_error h⟩

/-- ENCODE responds after appending frames of REC as stored, or, with LEN too short, after nothing (R175, R176). -/
theorem execEncode_eq_respond (len : Byte) (rep : Half) (s : State) :
    ∃ u v, CommandEffect s u ∧ execEncode len rep s = respond v u := by
  refine ⟨_, 0, ?_, rfl⟩
  split
  · exact .kept
  · exact .transmitted s.record rep

/-- Every command responds after one of the five changes (R73, R104). -/
theorem exec_eq_respond (i : Instr) (s : State) :
    ∃ u v, CommandEffect s u ∧ exec i s = respond v u := by
  cases i with
  | nop | csumCalc | csumValidRec | csumValidD | getPower | getMode | getTemp | getFan | getSwingAuto
  | getSwingPos | getSleep | getTurbo | getLight | getXfan | getDec | getDecBits =>
    exact ⟨_, _, .kept, rfl⟩
  | reset | setRaw | getRaw | fixup | setPower | setMode | setTemp | setFan | setSwingV | setSleep | setTurbo
  | setLight | setXfan =>
    exact ⟨_, _, .recordWritten _, rfl⟩
  | send rep => exact ⟨_, _, .transmitted _ rep, rfl⟩
  | encode len rep => exact execEncode_eq_respond len rep s
  | decode strict nbits => exact execDecode_eq_respond strict nbits s

/-- If a command answers `t`, then `t` is the response on top of one of the five changes. -/
theorem effect_of_exec {i : Instr} {s t : State} (h : exec i s = .next t) :
    ∃ u v, CommandEffect s u ∧ t = u.setRsp ⟨.done, v⟩ := by
  obtain ⟨u, v, hu, he⟩ := exec_eq_respond i s
  exact ⟨u, v, hu, next_of_respond (he.symm.trans h)⟩

/-! ### The configuration is fixed -/

/-- No change a command makes touches the configuration (R33). -/
theorem CommandEffect.cfg_eq {s u : State} (h : CommandEffect s u) : u.cfg = s.cfg := by
  cases h with
  | kept | recordWritten | decoded | decodeFailed => simp
  | transmitted => simp [transmit]

/-- No command changes the configuration (R33). -/
theorem exec_cfg {i : Instr} {s t : State} (h : exec i s = .next t) : t.cfg = s.cfg := by
  obtain ⟨u, v, hu, rfl⟩ := effect_of_exec h
  rw [State.setRsp_cfg, hu.cfg_eq]

/-- No presented command, legal or not, changes the configuration (R33, R81). -/
theorem runCommand_cfg {c : Command} {s t : State} (h : runCommand c s = .next t) : t.cfg = s.cfg := by
  cases hd : decode c with
  | ok i => exact exec_cfg (runCommand_ok hd s ▸ h)
  | error e =>
    rw [runCommand_error hd, illegal_eq] at h
    cases h
    rfl

/-- Settles O57, by the kind of input the step takes; for a command, by the change the command makes. -/
theorem configurationIsFixed : Obligations.ConfigurationIsFixed := by
  intro s t h
  match hi : s.inputs with
  | [] =>
    rw [step_nil hi] at h
    cases h
    exact idle_cfg s
  | .command c :: rest =>
    rw [step_command hi] at h
    exact (runCommand_cfg h).trans (s.setInputs_cfg rest)
  | .capture rx :: rest =>
    rw [step_capture hi] at h
    cases h
    rw [supplyCapture_cfg, State.setInputs_cfg]
  | .powerOn :: rest =>
    rw [step_powerOn hi] at h
    cases h
    rw [powerOn_cfg, State.setInputs_cfg]

/-! ### The carrier of an item -/

/-- A mark has the carrier (R7). -/
theorem Item.carrier_of_mark {i : Item} (h : i.pol = .mark) : i.carrier = some Config.carrierHz := by
  simp [Item.carrier, h]

/-- A space has no carrier (R7). -/
theorem Item.carrier_of_space {i : Item} (h : i.pol = .space) : i.carrier = none := by
  simp [Item.carrier, h]

/-- Settles O41, by the polarity of the item. -/
theorem marksCarryTheCarrier : Obligations.MarksCarryTheCarrier := by
  intro c x r item _
  cases hp : item.pol with
  | mark => exact Item.carrier_of_mark hp
  | space => exact Item.carrier_of_space hp

end Sys2Proof.Machine

namespace Sys2Proof.Machine

/-! ### The reset state -/

/-- Settles O13: each clause is about the default image alone, and evaluates. -/
theorem resetRecordAndFields : Obligations.ResetRecordAndFields := by
  unfold Obligations.ResetRecordAndFields
  decide

/-- A TX without items is no frames at all (R173). -/
theorem WholeFrames.nil (c : Config) : WholeFrames c [] where
  frames := rfl
  alternates := nofun
  constants := nofun

/-- A power-up presents nothing, so only the configuration is left to check (R35, R250). -/
theorem Inv.powerUp {cfg : Config} (h : cfg.WellFormed) : Inv (State.powerUp cfg) where
  cfgOk := h
  txOk := .nil cfg
  rxOk := ⟨Nat.zero_le _, nofun⟩
  inputsOk := nofun
  rspOk := nofun

/-- The default profile meets the constraints of D7, D20 and D24. -/
theorem wellFormed_ref : Config.ref.WellFormed := by decide

/-- Settles O59: the reset state is the power-up of the default profile. -/
theorem resetHasTheInvariant : Obligations.ResetHasTheInvariant :=
  ⟨fun _ h => .powerUp h, .powerUp wellFormed_ref⟩

/-! ### What each command makes of REC and appends to TX

Both are functions of the command, the configuration and REC alone. -/

/-- REC after a command (R20). -/
def recordAfter (c : Config) (r : Record) : Instr → Record
  | .reset => c.resetImage
  | .setRaw din => unpack din
  | .getRaw | .fixup | .send _ => c.fixup r
  | .setPower p => (r.put RecField.powerLow (bitOf p)).put RecField.powerHigh (bitOf p)
  | .setMode m => withMode c m.toNat r
  | .setTemp t => r.put RecField.temp (tempCode r t)
  | .setFan f => r.put RecField.fan (fanSpeed r f)
  | .setSwingV auto pos =>
    (r.put RecField.swingAuto (bitOf auto)).put RecField.swingPos (swingCode c auto pos)
  | .setSleep v => r.put RecField.sleep (bitOf v)
  | .setTurbo v => r.put RecField.turbo (bitOf v)
  | .setLight v => r.put RecField.light (bitOf v)
  | .setXfan v => r.put RecField.xfan (bitOf v)
  | _ => r

/-- The items a command appends to TX: ENCODE sends REC as stored, SEND the fixed-up record (R27, R175 to R177). -/
def sentItems (c : Config) (r : Record) : Instr → List Item
  | .encode len rep => if len.toNat < Config.recLen then [] else transmission c r rep.toNat
  | .send rep => transmission c (c.fixup r) rep.toNat
  | _ => []

/-- What a DECODE leaves in DEC_REC, DEC_BITS and the counter of free values (log 4); none for every other command. -/
abbrev DecodeOutput := Option (Record × Half × Nat)

/-- The block with the decoder output as a command leaves it (R25, R26). -/
def State.setOutput (s : State) : DecodeOutput → State
  | none => s
  | some (y, n, idx) => { s with decRec := y, decBits := n, freeIdx := idx }

/-- The block after command `i`, before the response, when `out` is what it leaves in the decoder output. -/
def State.after (s : State) (i : Instr) (out : DecodeOutput) : State :=
  ((s.setRecord (recordAfter s.cfg s.record i)).appendTx (sentItems s.cfg s.record i)).setOutput out

@[simp] theorem State.setOutput_record (s : State) (out : DecodeOutput) : (s.setOutput out).record = s.record := by
  cases out <;> rfl

@[simp] theorem State.setOutput_tx (s : State) (out : DecodeOutput) : (s.setOutput out).tx = s.tx := by
  cases out <;> rfl

@[simp] theorem State.setOutput_rx (s : State) (out : DecodeOutput) : (s.setOutput out).rx = s.rx := by
  cases out <;> rfl

@[simp] theorem State.appendTx_nil (s : State) : s.appendTx [] = s := by
  simp [State.appendTx]

/-- Only ENCODE and SEND append to TX (R27). -/
theorem sentItems_of_not_sender {i : Instr} (c : Config) (r : Record) (he : ∀ l rep, i ≠ .encode l rep)
    (hs : ∀ rep, i ≠ .send rep) : sentItems c r i = [] := by
  cases i with
  | encode len rep => exact absurd rfl (he len rep)
  | send rep => exact absurd rfl (hs rep)
  | _ => rfl

/-- A command that appends nothing writes REC and the decoder output at most. -/
theorem State.after_of_silent {s : State} {i : Instr} (out : DecodeOutput)
    (h : sentItems s.cfg s.record i = []) :
    s.after i out = (s.setRecord (recordAfter s.cfg s.record i)).setOutput out := by
  rw [State.after, h, State.appendTx_nil]

/-- ENCODE sends REC as stored, or with LEN too short does nothing (R175, R176). -/
theorem exec_encode (len : Byte) (rep : Half) (s : State) :
    exec (.encode len rep) s = respond 0 (s.after (.encode len rep) none) := by
  by_cases hl : len.toNat < Config.recLen
  · have hitems : sentItems s.cfg s.record (.encode len rep) = [] := if_pos hl
    rw [State.after_of_silent none hitems]
    exact congrArg (respond 0) (if_pos hl)
  · have hitems : sentItems s.cfg s.record (.encode len rep) = transmission s.cfg s.record rep.toNat := if_neg hl
    rw [State.after, hitems]
    exact congrArg (respond 0) (if_neg hl)

/-- A DECODE that succeeds leaves the record and 64 in the decoder output (R200). -/
theorem exec_decode_ok {strict : Bool} {nbits : Half} {s : State} {y : Record}
    (h : decodeCapture s.cfg strict nbits.toNat s.rx = .ok y) :
    exec (.decode strict nbits) s = respond 1 (s.after (.decode strict nbits) (some (y, 64, s.freeIdx))) := by
  rw [State.after_of_silent _ rfl]
  exact execDecode_ok h

/-- A DECODE that fails leaves free values in the decoder output (R204). -/
theorem exec_decode_error {strict : Bool} {nbits : Half} {s : State} {e : DecodeCause}
    (h : decodeCapture s.cfg strict nbits.toNat s.rx = .error e) :
    exec (.decode strict nbits) s = respond 0 (s.after (.decode strict nbits)
      (some (Config.freeDecRec s.freeIdx, Config.freeDecBits s.freeIdx, s.freeIdx + 1))) := by
  rw [State.after_of_silent _ rfl]
  exact execDecode_error h

/-! ### A command reads no buffer but its own

The buffers are TX, the decoder output and RX. What a command does is compared on two blocks that differ in
the buffers alone. -/

/-- The block with other buffers: DEC_REC, DEC_BITS, TX and RX. -/
def State.withBuffers (s : State) (y : Record) (n : Half) (tx : List Item) (rx : List Duration) : State :=
  { s with decRec := y, decBits := n, tx := tx, rx := rx }

/-- The buffers differ from those of `s` only where `i` does not read: DEC_REC is read by GET_DEC alone, DEC_BITS
by GET_DEC_BITS, RX by DECODE, TX by no command (R25 to R28). -/
structure Unread (i : Instr) (s : State) (y : Record) (n : Half) (rx : List Duration) : Prop where
  decRec : i = .getDec → y = s.decRec
  decBits : i = .getDecBits → n = s.decBits
  rx : ∀ st k, i = .decode st k → rx = s.rx

/-- From `s` and from `s'` the command answers the same value, and a DECODE leaves the same decoder output. -/
def ActsAlike (i : Instr) (s s' : State) : Prop :=
  ∃ v out, ((∀ st k, i ≠ .decode st k) → out = none) ∧
    exec i s = respond v (s.after i out) ∧ exec i s' = respond v (s'.after i out)

/-- For a command that sends nothing and leaves the decoder output it is enough to follow the value and REC. -/
theorem ActsAlike.of_silent {i : Instr} {s s' : State} {v : DWord}
    (hs : sentItems s.cfg s.record i = []) (hs' : sentItems s'.cfg s'.record i = [])
    (h : exec i s = respond v (s.setRecord (recordAfter s.cfg s.record i)))
    (h' : exec i s' = respond v (s'.setRecord (recordAfter s'.cfg s'.record i))) : ActsAlike i s s' := by
  refine ⟨v, none, fun _ => rfl, ?_, ?_⟩
  · rwa [State.after_of_silent none hs]
  · rwa [State.after_of_silent none hs']

/-- DECODE reads RX, and writes the decoder output without reading it (R200, R204). -/
theorem actsAlike_decode (strict : Bool) (nbits : Half) (s : State) (y : Record) (n : Half) (tx : List Item) :
    ActsAlike (.decode strict nbits) s (s.withBuffers y n tx s.rx) := by
  cases hd : decodeCapture s.cfg strict nbits.toNat s.rx with
  | ok y' =>
    exact ⟨_, _, fun h => absurd rfl (h strict nbits), exec_decode_ok hd,
      exec_decode_ok (s := s.withBuffers y n tx s.rx) hd⟩
  | error e =>
    exact ⟨_, _, fun h => absurd rfl (h strict nbits), exec_decode_error hd,
      exec_decode_error (s := s.withBuffers y n tx s.rx) hd⟩

/-- No command can tell apart two blocks that differ only in buffers it does not read. -/
theorem actsAlike_withBuffers {i : Instr} {s : State} {y : Record} {n : Half} {rx : List Duration}
    (h : Unread i s y n rx) (tx : List Item) : ActsAlike i s (s.withBuffers y n tx rx) := by
  cases i with
  | nop | csumCalc | csumValidRec | csumValidD | getPower | getMode | getTemp | getFan | getSwingAuto
  | getSwingPos | getSleep | getTurbo | getLight | getXfan
  | reset | setRaw | getRaw | fixup | setPower | setMode | setTemp | setFan | setSwingV | setSleep | setTurbo
  | setLight | setXfan =>
    exact .of_silent rfl rfl rfl rfl
  | getDec =>
    obtain rfl := h.decRec rfl
    exact .of_silent rfl rfl rfl rfl
  | getDecBits =>
    obtain rfl := h.decBits rfl
    exact .of_silent rfl rfl rfl rfl
  | send => exact ⟨0, none, fun _ => rfl, rfl, rfl⟩
  | encode len rep => exact ⟨0, none, fun _ => rfl, exec_encode len rep s, exec_encode len rep _⟩
  | decode strict nbits =>
    obtain rfl := h.rx strict nbits rfl
    exact actsAlike_decode strict nbits s y n tx

/-- If a command answers `t` from `s`, then one value and one decoder output make up `t` and what the command
answers with the other buffers. -/
theorem exec_withBuffers {i : Instr} {s t : State} (h : exec i s = .next t) {y : Record} {n : Half}
    {rx : List Duration} (hu : Unread i s y n rx) (tx : List Item) :
    ∃ v out, ((∀ st k, i ≠ .decode st k) → out = none) ∧ t = (s.after i out).setRsp ⟨.done, v⟩ ∧
      exec i (s.withBuffers y n tx rx) = .next (((s.withBuffers y n tx rx).after i out).setRsp ⟨.done, v⟩) := by
  obtain ⟨v, out, ho, hs, hb⟩ := actsAlike_withBuffers hu tx
  exact ⟨v, out, ho, next_of_respond (hs.symm.trans h), hb⟩

/-- A state's own buffers are no others. -/
theorem Unread.self (i : Instr) (s : State) : Unread i s s.decRec s.decBits s.rx :=
  ⟨fun _ => rfl, fun _ => rfl, fun _ _ _ => rfl⟩

/-- If a command answers `t`, then `t` has REC and TX by their functions, and the decoder output as a DECODE
leaves it. -/
theorem after_of_exec {i : Instr} {s t : State} (h : exec i s = .next t) :
    ∃ v out, ((∀ st k, i ≠ .decode st k) → out = none) ∧ t = (s.after i out).setRsp ⟨.done, v⟩ := by
  obtain ⟨v, out, ho, ht, -⟩ := exec_withBuffers h (.self i s) s.tx
  exact ⟨v, out, ho, ht⟩

/-- REC after a command (R20). -/
theorem exec_record {i : Instr} {s t : State} (h : exec i s = .next t) :
    t.record = recordAfter s.cfg s.record i := by
  obtain ⟨v, out, -, rfl⟩ := after_of_exec h
  simp [State.after]

/-- TX after a command (R27). -/
theorem exec_tx {i : Instr} {s t : State} (h : exec i s = .next t) :
    t.tx = s.tx ++ sentItems s.cfg s.record i := by
  obtain ⟨v, out, -, rfl⟩ := after_of_exec h
  simp [State.after]

/-- No command writes RX (R28). -/
theorem exec_rx {i : Instr} {s t : State} (h : exec i s = .next t) : t.rx = s.rx := by
  obtain ⟨v, out, -, rfl⟩ := after_of_exec h
  simp [State.after]

/-- No command but DECODE writes the decoder output (R25, R26). -/
theorem exec_decoded {i : Instr} {s t : State} (h : exec i s = .next t) (hd : ∀ st k, i ≠ .decode st k) :
    t.decRec = s.decRec ∧ t.decBits = s.decBits := by
  obtain ⟨v, out, ho, rfl⟩ := after_of_exec h
  rw [ho hd]
  exact ⟨rfl, rfl⟩

/-- Settles O54: what is appended depends on the command, the configuration and REC alone. -/
theorem txIsAppendOnlyAndUnread : Obligations.TxIsAppendOnlyAndUnread := by
  intro i s t h
  refine ⟨⟨sentItems s.cfg s.record i, exec_tx h, fun other => ?_⟩, fun he hs => ?_⟩
  · obtain ⟨v, out, -, rfl, hb⟩ := exec_withBuffers h (.self i s) other
    refine hb.trans ?_
    cases out <;> rfl
  · rw [exec_tx h, sentItems_of_not_sender _ _ he hs, List.append_nil]

/-- Settles O55: with another DEC_REC or DEC_BITS the command acts alike, and a DECODE then overwrites both. -/
theorem decoderOutputIsReadOnlyByItsGetters : Obligations.DecoderOutputIsReadOnlyByItsGetters := by
  intro i s t y n h
  refine ⟨exec_decoded h, fun hi => ?_, fun hi => ?_⟩
  · have hu : Unread i s y s.decBits s.rx := { Unread.self i s with decRec := fun e => absurd e hi }
    obtain ⟨v, out, -, rfl, hb⟩ := exec_withBuffers h hu s.tx
    cases out with
    | none => exact ⟨y, hb⟩
    | some o => exact ⟨o.1, hb⟩
  · have hu : Unread i s s.decRec n s.rx := { Unread.self i s with decBits := fun e => absurd e hi }
    obtain ⟨v, out, -, rfl, hb⟩ := exec_withBuffers h hu s.tx
    cases out with
    | none => exact ⟨n, hb⟩
    | some o => exact ⟨o.2.1, hb⟩

/-- Settles O56: with another RX every command but DECODE acts alike. -/
theorem rxIsReadOnlyByDecode : Obligations.RxIsReadOnlyByDecode := by
  intro i s t h
  refine ⟨exec_rx h, fun hd rx => ?_⟩
  have hu : Unread i s s.decRec s.decBits rx := { Unread.self i s with rx := fun st k e => absurd e (hd st k) }
  obtain ⟨v, out, ho, rfl, hb⟩ := exec_withBuffers h hu s.tx
  rw [ho hd] at hb ⊢
  exact hb

/-! ### The bits of REC a command can write -/

/-- The field is made of bits that R22 does not call uninterpreted. -/
abbrev FieldIsNamed {w : Nat} (f : RecField w) : Prop :=
  ∀ (b : Fin 8) (j : Fin 8), uninterpreted b j = true → ¬ (b = f.byte ∧ f.lo ≤ j ∧ j < f.lo + w)

/-- The two records have the same uninterpreted bits (R22). -/
def SameUninterpreted (r r' : Record) : Prop := ∀ b j, uninterpreted b j = true → r'.bit b j = r.bit b j

/-- An uninterpreted bit is a bit of a byte (R22). -/
theorem lt_of_uninterpreted {b : Fin 8} {j : Nat} (h : uninterpreted b j = true) : j < 8 := by
  obtain ⟨u, hu, hbj⟩ := List.any_eq_true.1 h
  have hlast : u.2.2 < 8 := (by decide : ∀ u ∈ uninterpretedRanges, u.2.2 < 8) u hu
  have hj : j ≤ u.2.2 := of_decide_eq_true (Bool.and_eq_true_iff.1 hbj).2
  omega

theorem SameUninterpreted.refl (r : Record) : SameUninterpreted r r := fun _ _ _ => rfl

/-- Writing a field of R21 keeps the uninterpreted bits (R10, R22). -/
theorem SameUninterpreted.put {r r' : Record} {w : Nat} {f : RecField w} (h : SameUninterpreted r r')
    (v : BitVec w) (hf : FieldIsNamed f := by decide) : SameUninterpreted r (r'.put f v) := by
  intro b j hu
  have hj := lt_of_uninterpreted hu
  rw [Record.bit_put _ _ _ _ _ hj, if_neg (hf b ⟨j, hj⟩ hu)]
  exact h b j hu

/-- The locks and the mode code of SET_MODE are fields (R112). -/
theorem SameUninterpreted.withMode (c : Config) (m : Nat) (r : Record) :
    SameUninterpreted r (withMode c m r) := by
  unfold Machine.withMode
  refine SameUninterpreted.put ?_ _
  have h1 : SameUninterpreted r (if locksTemp c m then r.put RecField.temp autoTempCode else r) := by
    split
    · exact (SameUninterpreted.refl r).put _
    · exact .refl r
  show SameUninterpreted r (if locksFan m then _ else _)
  split
  · exact h1.put _
  · exact h1

/-- A setter and a fixup write fields, and RESET and SET_RAW alone write more (R22). -/
theorem sameUninterpreted_recordAfter {i : Instr} (c : Config) (r : Record) (hr : i ≠ .reset)
    (hs : ∀ d, i ≠ .setRaw d) : SameUninterpreted r (recordAfter c r i) := by
  have h := SameUninterpreted.refl r
  cases i with
  | reset => exact absurd rfl hr
  | setRaw d => exact absurd rfl (hs d)
  | getRaw | fixup | send | setTemp | setFan | setSleep | setTurbo | setLight | setXfan => exact h.put _
  | setPower | setSwingV => exact (h.put _).put _
  | setMode m => exact .withMode c m.toNat r
  | nop | csumCalc | csumValidRec | csumValidD | getPower | getMode | getTemp | getFan | getSwingAuto
  | getSwingPos | getSleep | getTurbo | getLight | getXfan | encode | decode | getDec | getDecBits => exact h

/-- Settles O52, by what each command makes of REC. -/
theorem uninterpretedBitsArePreserved : Obligations.UninterpretedBitsArePreserved := by
  intro i s t hr hs h
  rw [exec_record h]
  exact sameUninterpreted_recordAfter s.cfg s.record hr hs

/-- A command whose opcode is none of the writers of R20 keeps REC. -/
theorem recordAfter_of_not_writer {i : Instr} (c : Config) (r : Record)
    (h : i.opcode ∉ ([.reset, .setRaw, .setPower, .setMode, .setTemp, .setFan, .setSwingV, .setSleep, .setTurbo,
      .setLight, .setXfan, .getRaw, .fixup, .send] : List Opcode)) : recordAfter c r i = r := by
  cases i with
  | nop | csumCalc | csumValidRec | csumValidD | getPower | getMode | getTemp | getFan | getSwingAuto
  | getSwingPos | getSleep | getTurbo | getLight | getXfan | encode | decode | getDec | getDecBits => rfl
  | reset | setRaw | getRaw | fixup | setPower | setMode | setTemp | setFan | setSwingV | setSleep | setTurbo
  | setLight | setXfan | send => simp [Instr.opcode] at h

/-- GET_RAW, FIXUP and SEND fix REC up (R103, R153, R177). -/
theorem recordAfter_of_fixer {i : Instr} (c : Config) (r : Record)
    (h : i = .getRaw ∨ i = .fixup ∨ ∃ rep, i = .send rep) : recordAfter c r i = c.fixup r := by
  obtain rfl | rfl | ⟨rep, rfl⟩ := h <;> rfl

/-- Settles O53: the fixup writes the checksum nibble alone, and no other than a writer changes REC. -/
theorem onlyTheNamedCommandsWriteRec : Obligations.OnlyTheNamedCommandsWriteRec := by
  intro i s t h
  rw [exec_record h]
  refine ⟨fun hf b j hj hn => ?_, recordAfter_of_not_writer s.cfg s.record⟩
  rw [recordAfter_of_fixer _ _ hf]
  exact s.cfg.bit_fixup s.record b j hj hn

end Sys2Proof.Machine

namespace Sys2Proof.Machine

/-! ### GET_RAW -/

/-- GET_RAW writes the fixed-up record and responds with it (R56, R103). -/
theorem exec_getRaw (s : State) :
    exec .getRaw s = respond (s.cfg.fixup s.record).pack (s.setRecord (s.cfg.fixup s.record)) := rfl

/-- Writing REC and responding again, with the record and the value that are already there, changes nothing. -/
theorem respond_setRecord_idem (v : DWord) (r : Record) (s : State) :
    respond v (((s.setRecord r).setRsp ⟨.done, v⟩).setRecord r) = .next ((s.setRecord r).setRsp ⟨.done, v⟩) := rfl

/-- Settles O18: REC is fixed up already when the second GET_RAW runs, so its fixup keeps REC (R152). -/
theorem getRawTwiceIsGetRawOnce : Obligations.GetRawTwiceIsGetRawOnce := by
  intro s t h
  obtain rfl := next_of_respond ((exec_getRaw s).symm.trans h)
  simp [exec_getRaw, Config.fixup_fixup, respond_setRecord_idem]

end Sys2Proof.Machine

namespace Sys2Proof

/-! ### Decode and encode are inverse to each other -/

/-- The encoding of every command leaves every reserved field of its form 0 (R71, R83). -/
theorem reservedZero_encode (i : Instr) : i.opcode.form.reservedZero (encode i) = true := by
  open Laws.LegalEncoding in
  cases i with
  | nop => exact nop
  | reset => exact reset
  | setRaw din => exact setRaw din
  | getRaw => exact getRaw
  | fixup => exact fixup
  | csumCalc => exact csumCalc
  | csumValidRec => exact csumValidRec
  | csumValidD din => exact csumValidD din
  | setPower p => exact setPower p
  | getPower => exact getPower
  | setMode m => exact setMode m
  | getMode => exact getMode
  | setTemp t => exact setTemp t
  | getTemp => exact getTemp
  | setFan f => exact setFan f
  | getFan => exact getFan
  | setSwingV auto pos => exact setSwingV auto pos
  | getSwingAuto => exact getSwingAuto
  | getSwingPos => exact getSwingPos
  | setSleep v => exact setSleep v
  | getSleep => exact getSleep
  | setTurbo v => exact setTurbo v
  | getTurbo => exact getTurbo
  | setLight v => exact setLight v
  | getLight => exact getLight
  | setXfan v => exact setXfan v
  | getXfan => exact getXfan
  | encode len rep => exact Laws.LegalEncoding.encode len rep
  | send rep => exact send rep
  | decode strict nbits => exact Laws.LegalEncoding.decode strict nbits
  | getDec => exact getDec
  | getDecBits => exact getDecBits

/-- A bool operand is read back from the field it was written to (R71, R72). -/
theorem flagA_encode {i : Instr} {b : Bool} (h : i.wordA = flagField b) : (encode i).flagA = b := by
  simp [Command.flagA, h]

/-- Assembling the operands of an encoding gives the command back (R70 to R72). -/
theorem assemble_encode (i : Instr) : i.opcode.assemble (encode i) = i := by
  cases i with
  | setPower p => exact congrArg Instr.setPower (flagA_encode rfl)
  | setSleep v => exact congrArg Instr.setSleep (flagA_encode rfl)
  | setTurbo v => exact congrArg Instr.setTurbo (flagA_encode rfl)
  | setLight v => exact congrArg Instr.setLight (flagA_encode rfl)
  | setXfan v => exact congrArg Instr.setXfan (flagA_encode rfl)
  | setMode m => exact congrArg Instr.setMode (fieldA_encode _)
  | setTemp t => exact congrArg Instr.setTemp (fieldA_encode _)
  | setFan f => exact congrArg Instr.setFan (fieldA_encode _)
  | setSwingV auto pos => exact congrArg₂ Instr.setSwingV (flagA_encode rfl) (fieldB_encode_of_pos rfl)
  | encode len rep => exact congrArg₂ Instr.encode (fieldA_encode _) (imm16_encode _)
  | send rep => exact congrArg Instr.send (imm16_encode _)
  | decode strict nbits => exact congrArg₂ Instr.decode (flagA_encode rfl) (imm16_encode _)
  | _ => rfl

/-- Decoding undoes encoding. -/
theorem decode_encode (i : Instr) : decode (encode i) = .ok i := by
  rw [decode_of_opc (opc_encode i) (reservedZero_encode i), assemble_encode]

/-- Settles O2: an encoding is legal, and its fields hold the operands. -/
theorem decodeOfEncodeIsTheCommand : Obligations.DecodeOfEncodeIsTheCommand := decode_encode

/-- Field A as an encoding writes it from the operands that the form reads from `c` (R71, R72). -/
def Form.wordA (f : Form) (c : Command) : Byte :=
  match f with
  | .z | .raw | .snd => 0#8
  | .f1 | .sw | .dec => flagField c.flagA
  | .v8 | .enc => c.fieldA

/-- IMM16 as an encoding writes it from the operands that the form reads from `c` (R71, R72). -/
def Form.wordImm (f : Form) (c : Command) : Half :=
  match f with
  | .z | .raw | .f1 | .v8 => 0#16
  | .sw => c.fieldB ++ 0#8
  | .enc | .snd | .dec => c.imm16

theorem Opcode.wordA_assemble (op : Opcode) (c : Command) : (op.assemble c).wordA = op.form.wordA c := by
  cases op <;> rfl

theorem Opcode.wordImm_assemble (op : Opcode) (c : Command) : (op.assemble c).wordImm = op.form.wordImm c := by
  cases op <;> rfl

theorem Opcode.dinOperand_assemble (op : Opcode) (c : Command) :
    (op.assemble c).dinOperand = if op.form = .raw then c.din else 0#64 := by
  cases op <;> rfl

/-- IMM16 is its two bytes B and C (R70). -/
theorem Command.imm16_eq (c : Command) : c.imm16 = c.fieldB ++ c.fieldC := by
  rw [c.fieldB_eq, c.fieldC_eq]
  exact (BitVec.extractLsb'_append_extractLsb' (w := 8) (len := 8) (x := c.imm16)).symm

/-- A field whose bits 7..1 are 0 is the field of the bool operand it holds (R71, R72). -/
theorem flagField_flagA {c : Command} (h : highBitsZero c.fieldA = true) : flagField c.flagA = c.fieldA :=
  flagField_getElem h

/-- A form whose reserved bits are 0 drops no bit of field A. -/
theorem Form.wordA_of_reservedZero {f : Form} {c : Command} (h : f.reservedZero c = true) :
    f.wordA c = c.fieldA := by
  cases f with
  | z | raw | snd => simp_all [Form.reservedZero, Form.wordA]
  | f1 | sw | dec => exact flagField_flagA (by simp_all [Form.reservedZero])
  | v8 | enc => rfl

/-- A form whose reserved bits are 0 drops no bit of IMM16. -/
theorem Form.wordImm_of_reservedZero {f : Form} {c : Command} (h : f.reservedZero c = true) :
    f.wordImm c = c.imm16 := by
  cases f with
  | z | raw | f1 | v8 | sw => simp_all [Form.reservedZero, Form.wordImm, Command.imm16_eq]
  | enc | snd | dec => rfl

/-- The word of a legal command is that of the encoding of its operands (R70, R81). -/
theorem cw_encode_assemble {op : Opcode} {c : Command} (ho : c.opc = op.code)
    (hr : op.form.reservedZero c = true) : (encode (op.assemble c)).cw = c.cw := by
  rw [c.cw_eq, ho]
  exact cw_encode (op.opcode_assemble c)
    ((op.wordA_assemble c).trans (Form.wordA_of_reservedZero hr))
    ((op.wordImm_assemble c).trans (Form.wordImm_of_reservedZero hr))

/-- Settles O3: the reserved bits that an encoding writes as 0 are 0 in a legal word. -/
theorem encodeOfDecodeIsTheWord : Obligations.EncodeOfDecodeIsTheWord := by
  intro c i h
  obtain ⟨op, ho, hr, rfl⟩ := decode_ok h
  refine ⟨cw_encode_assemble ho hr, fun hraw => ?_⟩
  rw [op.opcode_assemble] at hraw
  rw [din_encode, op.dinOperand_assemble, if_pos hraw]

/-! ### The rows of the opcode table -/

/-- The bits of fields A, B and C that a form marks 0 (R71). -/
def Form.reservedMask : Form → Byte × Byte × Byte
  | .z | .raw => (0xFF, 0xFF, 0xFF)
  | .f1 => (0xFE, 0xFF, 0xFF)
  | .v8 => (0x00, 0xFF, 0xFF)
  | .sw => (0xFE, 0x00, 0xFF)
  | .enc => (0x00, 0x00, 0x00)
  | .snd => (0xFF, 0x00, 0x00)
  | .dec => (0xFE, 0x00, 0x00)

/-- The match and mask bits of an opcode: all of OPC, and the reserved bits of its form at 0 (R71, R80). -/
def Opcode.pattern (op : Opcode) : Word × Word :=
  (op.code ++ 0#8 ++ (0#8 ++ 0#8),
    0xFF#8 ++ op.form.reservedMask.1 ++ (op.form.reservedMask.2.1 ++ op.form.reservedMask.2.2))

/-- The opcode table is the opcode map with the form of each opcode (R71, R80). -/
theorem tablePatterns_eq : tablePatterns = Opcode.all.map Opcode.pattern := by decide

theorem Opcode.mem_all (op : Opcode) : op ∈ Opcode.all := by
  cases op <;> decide

theorem highBitsZero_iff (a : Byte) : highBitsZero a = true ↔ a &&& 0xFE#8 = 0#8 := by
  revert a
  decide

/-- The legality check of a form is that its reserved bits are 0 (R71, R81). -/
theorem Form.reservedZero_iff (f : Form) (c : Command) :
    f.reservedZero c = true ↔ c.fieldA &&& f.reservedMask.1 = 0#8 ∧
      c.fieldB &&& f.reservedMask.2.1 = 0#8 ∧ c.fieldC &&& f.reservedMask.2.2 = 0#8 := by
  have hall (a : Byte) : a &&& 255#8 = a := BitVec.and_allOnes
  cases f <;> simp [Form.reservedZero, Form.reservedMask, highBitsZero_iff, hall, and_assoc]

/-- Two concatenations agree exactly when their parts do. -/
theorem bitVec_append_eq_append_iff {m n : Nat} {a a' : BitVec m} {b b' : BitVec n} :
    a ++ b = a' ++ b' ↔ a = a' ∧ b = b' := by
  refine ⟨fun h => ⟨?_, ?_⟩, fun ⟨ha, hb⟩ => by rw [ha, hb]⟩
  · simpa only [BitVec.extractLsb'_append_eq_left] using congrArg (BitVec.extractLsb' n m) h
  · simpa only [BitVec.extractLsb'_append_eq_right] using congrArg (BitVec.extractLsb' 0 n) h

/-- Four fields under a mask agree with four values exactly when each does. -/
theorem and_fields_eq_iff {w x y z : Nat} {a ma va : BitVec w} {b mb vb : BitVec x} {c mc vc : BitVec y}
    {d md vd : BitVec z} :
    (a ++ b ++ (c ++ d)) &&& (ma ++ mb ++ (mc ++ md)) = va ++ vb ++ (vc ++ vd) ↔
      a &&& ma = va ∧ b &&& mb = vb ∧ c &&& mc = vc ∧ d &&& md = vd := by
  simp only [BitVec.and_append, bitVec_append_eq_append_iff, and_assoc]

/-- A word agrees with an opcode's row exactly when OPC is its number and the reserved bits of its form are 0. -/
theorem and_pattern_iff (op : Opcode) (c : Command) :
    c.cw &&& op.pattern.2 = op.pattern.1 ↔ c.opc = op.code ∧ op.form.reservedZero c = true := by
  have hopc : c.opc &&& 0xFF#8 = c.opc := BitVec.and_allOnes
  rw [Form.reservedZero_iff, c.cw_eq, c.imm16_eq]
  refine and_fields_eq_iff.trans ?_
  rw [hopc]

/-- A command decodes exactly when OPC is an opcode's number and the reserved bits of its form are 0 (R81). -/
theorem decodes_iff (c : Command) :
    (∃ i, decode c = .ok i) ↔ ∃ op : Opcode, c.opc = op.code ∧ op.form.reservedZero c = true := by
  constructor
  · rintro ⟨i, h⟩
    obtain ⟨op, ho, hr, -⟩ := decode_ok h
    exact ⟨op, ho, hr⟩
  · rintro ⟨op, ho, hr⟩
    exact ⟨_, decode_of_opc ho hr⟩

/-- A word fits the table exactly when it agrees with some opcode's row. -/
theorem fitsTable_iff (cw : Word) : FitsTable cw ↔ ∃ op : Opcode, cw &&& op.pattern.2 = op.pattern.1 := by
  simp [FitsTable, tablePatterns_eq, Opcode.mem_all]

/-- Settles O4, row by row: agreeing with a row is the legality check of its opcode. -/
theorem legalWordsAreTheTable : Obligations.LegalWordsAreTheTable := by
  intro c
  simp only [decodes_iff, fitsTable_iff, and_pattern_iff]

/-! ### DIN -/

/-- The legality check does not look at DIN (R70). -/
theorem Form.reservedZero_din (f : Form) (cw : Word) (d d' : DWord) :
    f.reservedZero ⟨cw, d⟩ = f.reservedZero ⟨cw, d'⟩ := rfl

/-- Form RAW is the form of SET_RAW and CSUM_VALID_D alone (R71, R80). -/
theorem Opcode.code_of_form_raw {op : Opcode} (h : op.form = .raw) : op.code = 0x02#8 ∨ op.code = 0x07#8 := by
  revert h
  cases op <;> decide

/-- Settles O5: only the operands of form RAW are read from DIN, and OPC selects no opcode of that form. -/
theorem dinMattersOnlyInFormRaw : Obligations.DinMattersOnlyInFormRaw := by
  intro cw d d' h2 h7
  cases hop : Opcode.ofCode (cw.extractLsb' 24 8) with
  | none => simp [decode, Command.opc, hop]
  | some op =>
    have hraw : op.form ≠ .raw := fun hf => by
      have hcode := Opcode.code_of_form_raw hf
      rw [Opcode.code_of_ofCode hop] at hcode
      exact hcode.elim h2 h7
    simp [decode, Command.opc, hop, Form.reservedZero_din _ cw d d', Opcode.assemble_din hraw cw d d']

/-! ### Written words -/

/-- Settles O1: each word is the encoding of its command. -/
theorem writtenWordsDecode : Obligations.WrittenWordsDecode :=
  ⟨decode_encode (.setPower true), decode_encode (.setMode 255), decode_encode (.setTemp 22),
    decode_encode (.setSwingV true 99), decode_encode (.setRaw 0x5000200050200900), decode_encode .fixup,
    decode_encode (.encode 255 65535), decode_encode (.send 2), decode_encode (.decode true 64)⟩

/-! ### The assembler -/

/-- The fields of a word written as opcode, field A and IMM16 (R70). -/
theorem Command.fields_of_cw_eq {c : Command} {o a : Byte} {imm : Half} (h : c.cw = o ++ a ++ imm) :
    c.opc = o ∧ c.fieldA = a ∧ c.imm16 = imm := by
  rw [c.cw_eq] at h
  obtain ⟨hoa, hi⟩ := bitVec_append_eq_append_iff.1 h
  obtain ⟨ho, ha⟩ := bitVec_append_eq_append_iff.1 hoa
  exact ⟨ho, ha, hi⟩

/-- A command with reserved fields 0, and DIN 0 outside form RAW, is the encoding of its operands. -/
theorem encode_assemble {op : Opcode} {c : Command} (ho : c.opc = op.code)
    (hr : op.form.reservedZero c = true) (hd : op.form ≠ .raw → c.din = 0#64) :
    encode (op.assemble c) = c := by
  have hcw := cw_encode_assemble ho hr
  have hdin : (encode (op.assemble c)).din = c.din := by
    rw [din_encode, op.dinOperand_assemble]
    split
    · rfl
    · next h => exact (hd h).symm
  obtain ⟨cw, din⟩ := c
  exact congrArg₂ Command.mk hcw hdin

/-- A one-bit operand leaves the other bits of its field 0 (R71). -/
theorem highBitsZero_ofNat {v : Nat} (h : v < 2) : highBitsZero (BitVec.ofNat 8 v) = true := by
  interval_cases v <;> rfl

/-- Fields B and C are 0 where IMM16 is (R70). -/
theorem Command.fieldB_fieldC_of_imm16 {c : Command} (h : c.imm16 = 0#16) : c.fieldB = 0#8 ∧ c.fieldC = 0#8 := by
  rw [c.fieldB_eq, c.fieldC_eq, h]
  decide

/-- The assembler writes only fields whose reserved bits are 0 (R83). -/
theorem Form.reservedZero_of_asmFields {f : Form} {operands : List Nat} {c : Command}
    (h : f.asmFields operands = some (c.fieldA, c.imm16)) : f.reservedZero c = true := by
  unfold Form.asmFields at h
  split at h <;> simp only [Option.ite_none_right_eq_some, Option.some.injEq, Prod.mk.injEq, reduceCtorEq] at h
  case h_1 =>
    obtain ⟨ha, hi⟩ := h
    obtain ⟨hb, hc⟩ := Command.fieldB_fieldC_of_imm16 hi.symm
    simp [Form.reservedZero, ← ha, hb, hc]
  case h_2 =>
    obtain ⟨hv, ha, hi⟩ := h
    obtain ⟨hb, hc⟩ := Command.fieldB_fieldC_of_imm16 hi.symm
    simp [Form.reservedZero, ← ha, hb, hc, highBitsZero_ofNat hv]
  case h_3 =>
    obtain ⟨-, -, hi⟩ := h
    obtain ⟨hb, hc⟩ := Command.fieldB_fieldC_of_imm16 hi.symm
    simp [Form.reservedZero, hb, hc]
  case h_4 =>
    obtain ⟨⟨hauto, -⟩, ha, hi⟩ := h
    have hc : c.fieldC = 0#8 := by
      rw [c.fieldC_eq, ← hi]
      exact BitVec.extractLsb'_append_eq_right
    simp [Form.reservedZero, ← ha, hc, highBitsZero_ofNat hauto]
  case h_5 => rfl
  case h_6 => simp [Form.reservedZero, ← h.2.1]
  case h_7 =>
    obtain ⟨⟨hstrict, -⟩, ha, -⟩ := h
    simp [Form.reservedZero, ← ha, highBitsZero_ofNat hstrict]

/-- A mnemonic with operands assembles to an encoding: a record operand goes to DIN beside fields of 0, number
operands to the fields of the form beside a DIN of 0 (R83; logs 12 and 14). -/
theorem encode_of_asmCommand {op : Opcode} {operands : List Char} {c : Command}
    (h : op.asmCommand operands = .command c) : encode (op.assemble c) = c := by
  unfold Opcode.asmCommand at h
  split at h
  · next hraw =>
    split at h
    · next din _ =>
      cases h
      obtain ⟨ho, ha, hi⟩ := Command.fields_of_cw_eq (c := ⟨op.code ++ 0#8 ++ 0#16, din⟩) rfl
      obtain ⟨hb, hc⟩ := Command.fieldB_fieldC_of_imm16 hi
      exact encode_assemble ho (by simp [hraw, Form.reservedZero, ha, hb, hc]) (absurd hraw)
    · cases h
  · split at h
    · next a imm hfields =>
      cases h
      obtain ⟨ho, ha, hi⟩ := Command.fields_of_cw_eq (c := ⟨op.code ++ a ++ imm, 0#64⟩) rfl
      obtain ⟨numbers, -, hnumbers⟩ := Option.bind_eq_some_iff.1 hfields
      exact encode_assemble ho (Form.reservedZero_of_asmFields (by rw [hnumbers, ha, hi])) fun _ => rfl
    · cases h

/-- A first word with operands that assembles gives an encoding: ON, OFF or a mnemonic (R83, R84). -/
theorem encode_of_asmWord {m operands : List Char} {c : Command} (h : asmWord m operands = .command c) :
    ∃ i, encode i = c := by
  unfold asmWord at h
  split at h
  · exact ⟨Instr.on, by cases h; rfl⟩
  · split at h
    · exact ⟨Instr.off, by cases h; rfl⟩
    · split at h
      · next op _ => exact ⟨op.assemble c, encode_of_asmCommand h⟩
      · cases h

/-- Settles O7: a line that is a command is a first word with operands, so an encoding, and an encoding decodes. -/
theorem assembledLinesAreLegal : Obligations.AssembledLinesAreLegal := by
  intro line c h
  have hword : ∃ i, encode i = c := by
    unfold assembleLine at h
    dsimp only at h
    split at h
    · cases h
    · exact encode_of_asmWord h
  obtain ⟨i, rfl⟩ := hword
  exact ⟨i, decode_encode i, rfl⟩

/-- The line ON is SET_POWER 1 and the line OFF is SET_POWER 0 (R84). -/
theorem assembleLine_on_off :
    assembleLine "ON" = .command (encode Instr.on) ∧ assembleLine "OFF" = .command (encode Instr.off) := by
  decide +kernel

/-- Settles O6: the two lines are encodings, and the written words are those encodings. -/
theorem onAndOffAssembleToSetPower : Obligations.OnAndOffAssembleToSetPower :=
  ⟨assembleLine_on_off.1, decode_encode Instr.on, assembleLine_on_off.2, decode_encode Instr.off⟩

end Sys2Proof

namespace Sys2Proof.Machine

/-! ### Illegal commands -/

/-- A command that decodes to nothing answers ILLEGAL (R81). -/
theorem runCommand_of_not_decodes {c : Command} (h : ¬ ∃ i, decode c = .ok i) (s : State) :
    runCommand c s = illegal s := by
  cases hd : decode c with
  | ok i => exact absurd ⟨i, hd⟩ h
  | error e => exact runCommand_error hd s

/-- Settles O9: a word that fits no row of the table does not decode. -/
theorem illegalCommandChangesNothing : Obligations.IllegalCommandChangesNothing := by
  intro s c rest hs hfit
  rw [step_command hs, runCommand_of_not_decodes (mt (legalWordsAreTheTable c).1 hfit)]
  exact illegal_eq _

end Sys2Proof.Machine

namespace Sys2Proof.Machine

/-! ### The items of a frame and of a transmission -/

/-- The items of `n` bits, bit `p` being `b p` (R76, R170). -/
def emitRun (c : Config) (b : Nat → Bool) (n : Nat) : List Item :=
  (List.range n).flatMap fun p => emitBit c (b p)

/-- Item `k` of a run of bits: mark, space, mark, space, the space by the bit (R76). -/
def bitItem (c : Config) (b : Nat → Bool) (k : Nat) : Item :=
  if k % 2 = 0 then mark c.tBitMark else space (bitSpace c (b (k / 2)))

theorem emitBits_eq_emitRun (c : Config) {n : Nat} (v : BitVec n) : emitBits c v = emitRun c v.getLsbD n := rfl

/-- A run of bits is its first bits and then the others. -/
theorem emitRun_add (c : Config) (b : Nat → Bool) (m n : Nat) :
    emitRun c b (m + n) = emitRun c b m ++ emitRun c (fun p => b (m + p)) n := by
  simp [emitRun, List.range_add, List.flatMap_map]

/-- A run of bits, item by item. -/
theorem emitRun_eq_map (c : Config) (b : Nat → Bool) (n : Nat) :
    emitRun c b n = (List.range (2 * n)).map (bitItem c b) := by
  induction n with
  | zero => rfl
  | succ n ih =>
    have hodd : (2 * n + 1) / 2 = n := by omega
    rw [emitRun_add, ih, Nat.mul_succ, List.range_add]
    simp [emitRun, emitBit, List.range_succ, bitItem, hodd]

/-- The bits of byte `i` are payload bits `8 i` to `8 i + 7` (R75). -/
theorem payloadBit_byte (x : Record) (i : Fin 8) {j : Nat} (hj : j < 8) :
    payloadBit x (8 * i + j) = (x.byte i).getLsbD j := by
  have hdiv : (8 * i.val + j) / 8 = i := by omega
  have hmod : (8 * i.val + j) % 8 = j := by omega
  simp [payloadBit, Record.bit, hdiv, hmod]

/-- A byte goes out as its eight payload bits (R75, R170). -/
theorem emitBits_byte (c : Config) (x : Record) (i : Fin 8) :
    emitBits c (x.byte i) = emitRun c (fun j => payloadBit x (8 * i + j)) 8 := by
  rw [emitBits_eq_emitRun, emitRun_eq_map, emitRun_eq_map]
  refine List.map_congr_left fun k hk => ?_
  have hbit : k / 2 < 8 := by
    have := List.mem_range.1 hk
    omega
  simp only [bitItem, payloadBit_byte x i hbit]

/-- Four bytes after each other go out as 32 payload bits in time order (R75, R170). -/
theorem emitBits_four_bytes (c : Config) (x : Record) (i₀ i₁ i₂ i₃ : Fin 8) (h₁ : i₁.val = i₀ + 1)
    (h₂ : i₂.val = i₀ + 2) (h₃ : i₃.val = i₀ + 3) :
    emitBits c (x.byte i₀) ++ emitBits c (x.byte i₁) ++ emitBits c (x.byte i₂) ++ emitBits c (x.byte i₃) =
      emitRun c (fun p => payloadBit x (8 * i₀ + p)) 32 := by
  rw [emitRun_add c _ 24 8, emitRun_add c _ 16 8, emitRun_add c _ 8 8]
  simp only [emitBits_byte, h₁, h₂, h₃, Nat.mul_add, Nat.add_assoc]

/-- A frame with its two blocks as runs of payload bits (R75, R171). -/
theorem frame_eq_runs (c : Config) (x : Record) :
    frame c x = [mark c.tHdrMark, space c.tHdrSpace] ++ emitRun c (payloadBit x) 32
      ++ emitRun c Config.footerVal.getLsbD 3 ++ [mark c.tBitMark, space c.tGap]
      ++ emitRun c (fun p => payloadBit x (32 + p)) 32 ++ [mark c.tBitMark, space c.tMsg] := by
  have hfirst : emitBits c x.b0 ++ emitBits c x.b1 ++ emitBits c x.b2 ++ emitBits c x.b3 =
      emitRun c (payloadBit x) 32 :=
    (emitBits_four_bytes c x 0 1 2 3 rfl rfl rfl).trans (by simp)
  have hsecond : emitBits c x.b4 ++ emitBits c x.b5 ++ emitBits c x.b6 ++ emitBits c x.b7 =
      emitRun c (fun p => payloadBit x (32 + p)) 32 := emitBits_four_bytes c x 4 5 6 7 rfl rfl rfl
  rw [frame, hfirst, hsecond, emitBits_eq_emitRun]

/-- Items 2 to 65 of the table are the first 32 payload bits (R78). -/
theorem tableItem_first {c : Config} {x : Record} {k : Nat} (hk : k < 64) :
    tableItem c x (2 + k) = bitItem c (payloadBit x) k := by
  have hpar : (2 + k) % 2 = k % 2 := by omega
  unfold tableItem bitItem
  rw [if_neg (by omega), if_neg (by omega), if_pos (by omega), hpar]
  split
  · rfl
  · next hodd =>
    have hbit : (2 + k - 3) / 2 = k / 2 := by omega
    rw [hbit]

/-- Items 66 to 71 of the table are the footer 0b010 (R77, R78). -/
theorem tableItem_footer {c : Config} {x : Record} {k : Nat} (hk : k < 6) :
    tableItem c x (66 + k) = bitItem c Config.footerVal.getLsbD k := by
  interval_cases k <;> rfl

/-- Items 74 to 137 of the table are the last 32 payload bits (R78). -/
theorem tableItem_second {c : Config} {x : Record} {k : Nat} (hk : k < 64) :
    tableItem c x (74 + k) = bitItem c (fun p => payloadBit x (32 + p)) k := by
  have hpar : (74 + k) % 2 = k % 2 := by omega
  unfold tableItem bitItem
  rw [if_neg (by omega), if_neg (by omega), if_neg (by omega), if_neg (by omega), if_neg (by omega),
    if_neg (by omega), if_pos (by omega), hpar]
  split
  · rfl
  · next hodd =>
    have hbit : 32 + (74 + k - 75) / 2 = 32 + k / 2 := by omega
    rw [hbit]

/-- A frame is the table's items in order: its six parts are the table's six ranges of indexes (R78, R171). -/
theorem frame_eq_table (c : Config) (x : Record) : frame c x = (List.range 140).map (tableItem c x) := by
  have hsplit : List.range 140 = List.range 2 ++ (List.range 64).map (2 + ·) ++ (List.range 6).map (66 + ·)
    ++ (List.range 2).map (72 + ·) ++ (List.range 64).map (74 + ·) ++ (List.range 2).map (138 + ·) := by
    simp only [← List.range_add]
  have hfirst : ((List.range 64).map (2 + ·)).map (tableItem c x) = emitRun c (payloadBit x) 32 := by
    rw [emitRun_eq_map, List.map_map]
    exact List.map_congr_left fun k hk => tableItem_first (List.mem_range.1 hk)
  have hfooter : ((List.range 6).map (66 + ·)).map (tableItem c x) = emitRun c Config.footerVal.getLsbD 3 := by
    rw [emitRun_eq_map, List.map_map]
    exact List.map_congr_left fun k hk => tableItem_footer (List.mem_range.1 hk)
  have hsecond : ((List.range 64).map (74 + ·)).map (tableItem c x) =
      emitRun c (fun p => payloadBit x (32 + p)) 32 := by
    rw [emitRun_eq_map, List.map_map]
    exact List.map_congr_left fun k hk => tableItem_second (List.mem_range.1 hk)
  rw [hsplit]
  simp only [List.map_append, hfirst, hfooter, hsecond, frame_eq_runs]
  rfl

/-- Item `k` of a frame is the table's (R78). -/
theorem getElem?_frame (c : Config) (x : Record) {k : Nat} (hk : k < 140) :
    (frame c x)[k]? = some (tableItem c x k) := by
  rw [frame_eq_table, List.getElem?_map, List.getElem?_range hk]
  rfl

/-- Item `k` of frame `f` of a transmission is the table's (R78, R172). -/
theorem getElem?_transmission (c : Config) (x : Record) {r f k : Nat} (hf : f ≤ r) (hk : k < 140) :
    (transmission c x r)[140 * f + k]? = some (tableItem c x k) := by
  induction r generalizing f with
  | zero =>
    obtain rfl : f = 0 := by omega
    rw [transmission_zero, Nat.mul_zero, Nat.zero_add, getElem?_frame c x hk]
  | succ r ih =>
    rw [transmission_succ]
    cases f with
    | zero =>
      rw [Nat.mul_zero, Nat.zero_add, List.getElem?_append_left (by rwa [length_frame]), getElem?_frame c x hk]
    | succ f =>
      have hskip : 140 * (f + 1) + k - 140 = 140 * f + k := by omega
      rw [List.getElem?_append_right (by rw [length_frame]; omega), length_frame, hskip, ih (by omega)]

/-- The table alternates from a mark (R78). -/
theorem tableItem_pol (c : Config) (x : Record) {k : Nat} (hk : k < 140) :
    (tableItem c x k).pol = if k % 2 = 0 then Polarity.mark else Polarity.space := by
  unfold tableItem
  split_ifs <;> simp [mark, space] <;> omega

/-- A transmission alternates from a mark: every frame has an even number of items (R78, R173). -/
theorem alternates_transmission (c : Config) (x : Record) (r : Nat) : Alternates (transmission c x r) := by
  intro k item hitem
  obtain ⟨hk, -⟩ := List.getElem?_eq_some_iff.1 hitem
  rw [length_transmission] at hk
  have hf : k / 140 ≤ r := by omega
  have hmod : k % 140 < 140 := Nat.mod_lt _ (by decide)
  have hpar : k % 140 % 2 = k % 2 := by omega
  rw [← Nat.div_add_mod k 140, getElem?_transmission c x hf hmod] at hitem
  cases hitem
  rw [tableItem_pol c x hmod, hpar]

/-- Settles O36, from the items of one frame and those of a transmission. -/
theorem frameFollowsTheItemTable : Obligations.FrameFollowsTheItemTable := fun c x r =>
  ⟨length_frame c x, fun _ hk => getElem?_frame c x hk, length_transmission c x r,
    fun _ hf _ hk => getElem?_transmission c x hf hk, alternates_transmission c x r⟩

end Sys2Proof.Machine

namespace Sys2Proof

/-! ### The word of a command with operands

The statements write a word as a base with the operands shifted into place; an encoding is its fields side by
side (R70). -/

/-- A word from its fields OPC, A and B, with C at 0. -/
theorem fields_eq_or (o a b : Byte) :
    o ++ a ++ (b ++ 0#8) = o.setWidth 32 <<< 24 ||| a.setWidth 32 <<< 16 ||| b.setWidth 32 <<< 8 := by
  refine BitVec.eq_of_getLsbD_eq fun j hj => ?_
  simp only [BitVec.getLsbD_append, BitVec.getLsbD_or, BitVec.getLsbD_shiftLeft, BitVec.getLsbD_setWidth]
  grind

/-! ### Fields and bits of a record after a write -/

/-- A one-bit field holds the bit at its place. -/
theorem Record.get_eq_ofBool (r : Record) (f : RecField 1) : r.get f = BitVec.ofBool (r.bit f.byte f.lo) := by
  refine BitVec.eq_of_getLsbD_eq fun j hj => ?_
  obtain rfl : j = 0 := by omega
  rw [Record.getLsbD_get, Nat.add_zero]
  simp

/-- Writing a one-bit field sets its bit and keeps every other (R10). -/
theorem Record.bit_put_bitOf (r : Record) (f : RecField 1) (v : Bool) (i : Fin 8) {j : Nat} (hj : j < 8) :
    (r.put f (Machine.bitOf v)).bit i j = if i = f.byte ∧ j = f.lo then v else r.bit i j := by
  have hplace : (i = f.byte ∧ f.lo ≤ j ∧ j < f.lo + 1) ↔ (i = f.byte ∧ j = f.lo) := by omega
  rw [Record.bit_put _ _ _ _ _ hj, if_congr hplace rfl rfl]
  split
  · next h => simp [Machine.bitOf, h.2]
  · rfl

/-- Writing a field keeps every bit outside it (R10). -/
theorem Record.bit_put_outside {w : Nat} (r : Record) (f : RecField w) (v : BitVec w) {i : Fin 8} {j : Nat} (hj : j < 8)
    (h : ¬ (i = f.byte ∧ f.lo ≤ j ∧ j < f.lo + w)) : (r.put f v).bit i j = r.bit i j := by
  rw [Record.bit_put _ _ _ _ _ hj, if_neg h]

/-! ### The default image under REF_CSUM -/

/-- CHECKSUM_FN is REF_CSUM where the configuration says so (R150). -/
theorem Config.checksumFn_of_ref {c : Config} (h : c.checksum = .ref) (x : Record) :
    c.checksumFn x = refChecksum x := by
  simp [Config.checksumFn, h]

/-- The default image has the right checksum nibble under REF_CSUM (R101). -/
theorem Config.checksumValid_refResetImage {c : Config} (h : c.checksum = .ref) :
    c.checksumValid Config.refResetImage = true := by
  rw [Config.checksumValid_iff, Config.checksumFn_of_ref h]
  decide

/-- A record whose checksum nibble is right is its own fixup (R152). -/
theorem Config.fixup_of_checksumValid {c : Config} {x : Record} (h : c.checksumValid x = true) : c.fixup x = x := by
  rw [Config.fixup, ← (c.checksumValid_iff x).1 h, Record.put_get_self]

end Sys2Proof

namespace Sys2Proof.Machine

/-! ### The words of the commands, whatever DIN is -/

/-- Outside form RAW the word of a command's encoding is that command whatever DIN is (R70). -/
theorem isWordOf_encode {i : Instr} (hf : i.opcode.form ≠ .raw) : IsWordOf (encode i).cw i := by
  intro din
  have hdecode : decode ⟨(encode i).cw, din⟩ = .ok (i.opcode.assemble ⟨(encode i).cw, din⟩) :=
    decode_of_opc (opc_encode i) (reservedZero_encode i)
  rw [hdecode, Opcode.assemble_din hf _ din (encode i).din]
  exact congrArg Except.ok (assemble_encode i)

/-- The word of a command with at most fields A and B: each operand in its place on the base word (R71). Stated over
the opcode and the fields, so that the base word is left to evaluate whatever variables the command holds. -/
theorem isWordOf_fields {i : Instr} {op : Opcode} {base : Word} {a b : Byte} (ho : i.opcode = op)
    (hf : op.form ≠ .raw) (hbase : op.code.setWidth 32 <<< 24 = base) (ha : i.wordA = a)
    (hb : i.wordImm = b ++ 0#8) : IsWordOf (base ||| a.setWidth 32 <<< 16 ||| b.setWidth 32 <<< 8) i := by
  have hcw : (encode i).cw = base ||| a.setWidth 32 <<< 16 ||| b.setWidth 32 <<< 8 := by
    rw [cw_encode ho ha hb, fields_eq_or, hbase]
  exact hcw ▸ isWordOf_encode (ho ▸ hf)

/-- The word of a command with field A alone (R71). -/
theorem isWordOf_fieldA {i : Instr} {op : Opcode} {base : Word} {a : Byte} (ho : i.opcode = op)
    (hf : op.form ≠ .raw) (hbase : op.code.setWidth 32 <<< 24 = base) (ha : i.wordA = a)
    (hi : i.wordImm = 0#16) : IsWordOf (base ||| a.setWidth 32 <<< 16) i := by
  simpa using isWordOf_fields (b := 0#8) ho hf hbase ha hi

/-- A bool operand has the same place in a word as its field A (R71). -/
theorem flagWord_eq (base : Word) (v : Bool) : flagWord base v = base ||| (flagField v).setWidth 32 <<< 16 := by
  cases v <;> rfl

/-- The word of a command of form F1 (R71). -/
theorem isWordOf_flagWord {i : Instr} {op : Opcode} {base : Word} {v : Bool} (ho : i.opcode = op)
    (hf : op.form ≠ .raw) (hbase : op.code.setWidth 32 <<< 24 = base) (ha : i.wordA = flagField v)
    (hi : i.wordImm = 0#16) : IsWordOf (flagWord base v) i :=
  flagWord_eq base v ▸ isWordOf_fieldA ho hf hbase ha hi

/-! ### The step -/

/-- Settles O8: a step with a command presented decodes it, and a command that decodes runs. -/
theorem stepRunsTheDecodedCommand : Obligations.StepRunsTheDecodedCommand := by
  intro s c rest i hs hd
  rw [step_command hs, runCommand_ok hd]
  rfl

/-! ### What RESET, SET_RAW and the setters do -/

/-- RESET, SET_RAW and every setter write REC, keep the rest and answer DONE, 0 (R101, R102, R110 to R127). -/
theorem exec_of_setter {i : Instr} {op : Opcode} (ho : i.opcode = op)
    (h : op ∈ ([.reset, .setRaw, .setPower, .setMode, .setTemp, .setFan, .setSwingV, .setSleep, .setTurbo,
      .setLight, .setXfan] : List Opcode)) (s : State) :
    exec i s = .next { s with record := recordAfter s.cfg s.record i, rsp := some ⟨.done, 0#64⟩ } := by
  subst ho
  cases i with
  | reset | setRaw | setPower | setMode | setTemp | setFan | setSwingV | setSleep | setTurbo | setLight | setXfan =>
    rfl
  | nop | getRaw | fixup | csumCalc | csumValidRec | csumValidD | getPower | getMode | getTemp | getFan
  | getSwingAuto | getSwingPos | getSleep | getTurbo | getLight | getXfan | encode | send | decode | getDec
  | getDecBits => simp [Instr.opcode] at h

/-- Two commands in a row: the second runs from the state the first left, and its answer is the last (R59). -/
theorem execAll_pair {i j : Instr} {s t u : State} {v v' : DWord} (hi : exec i s = .next t)
    (hj : exec j t = respond v' u) (hv : v' = v) :
    ∃ w, execAll [i, j] s = .next w ∧ w.rsp = some ⟨.done, v⟩ :=
  ⟨u.setRsp ⟨.done, v⟩, by simp [execAll, hi, hj, hv, respond], rfl⟩

/-- CSUM_VALID_REC answers the validity test of REC (R155). -/
theorem exec_csumValidRec (s : State) :
    exec .csumValidRec s = respond (boolVal (s.cfg.checksumValid s.record)) s := rfl

/-! ### Whole-record commands -/

/-- Settles O14: NOP ends with its response alone. -/
theorem nopOnlyResponds : Obligations.NopOnlyResponds := fun s =>
  ⟨isWordOf_encode (i := .nop) (by decide), respond_eq 0 s⟩

/-- Settles O15: the default image has the right nibble under REF_CSUM, so GET_RAW's fixup keeps it. -/
theorem resetWritesTheImageOnly : Obligations.ResetWritesTheImageOnly := by
  intro s
  have hreset := exec_of_setter (i := .reset) rfl (by decide) s
  refine ⟨isWordOf_encode (i := .reset) (by decide), hreset, fun himage href => ?_⟩
  have hvalid := Config.checksumValid_refResetImage href
  have hrecord : recordAfter s.cfg s.record .reset = Config.refResetImage := himage
  rw [hrecord] at hreset
  constructor
  · refine execAll_pair hreset (exec_csumValidRec _) ?_
    rw [hvalid]
    rfl
  · refine execAll_pair hreset (exec_getRaw _) ?_
    rw [Config.fixup_of_checksumValid hvalid]
    rfl

/-- The word of SET_RAW, with DIN beside it (R71). -/
theorem decode_setRaw (din : DWord) : decode ⟨0x02000000#32, din⟩ = .ok (.setRaw din) := by
  have hcw : (encode (.setRaw din)).cw = 0x02000000#32 := cw_encode (o := .setRaw) (a := 0#8) (imm := 0#16) rfl rfl rfl
  rw [← hcw]
  exact decode_encode (.setRaw din)

/-- Settles O16: REC after SET_RAW is the unpacked DIN. -/
theorem setRawStoresTheBytesOfDin : Obligations.SetRawStoresTheBytesOfDin := fun din s =>
  ⟨decode_setRaw din, unpack din, exec_of_setter (op := .setRaw) rfl (by decide) s, byte_unpack din⟩

/-- Settles O17, from what the fixup writes and keeps and from the packing of a record. -/
theorem getRawFixesUpAndReturnsTheRecord : Obligations.GetRawFixesUpAndReturnsTheRecord := fun s =>
  ⟨isWordOf_encode (i := .getRaw) (by decide), s.cfg.fixup s.record, (s.cfg.fixup s.record).pack, exec_getRaw s,
    s.cfg.get_checksum_fixup s.record, s.cfg.bit_fixup s.record, (s.cfg.fixup s.record).extract_pack⟩

/-! ### The power bits -/

/-- The bits of REC after SET_POWER (R110). -/
theorem bit_recordAfter_setPower (c : Config) (r : Record) (p : Bool) (b : Fin 8) {j : Nat} (hj : j < 8) :
    (recordAfter c r (.setPower p)).bit b j =
      if (b = 0 ∧ j = 3) ∨ (b = 2 ∧ j = 3) then p else r.bit b j := by
  have hputs : recordAfter c r (.setPower p) =
      (r.put RecField.powerLow (bitOf p)).put RecField.powerHigh (bitOf p) := rfl
  rw [hputs, Record.bit_put_bitOf _ _ _ _ hj, Record.bit_put_bitOf _ _ _ _ hj]
  split_ifs <;> tauto

/-- Settles O19, bit by bit. -/
theorem setPowerWritesBothPowerBits : Obligations.SetPowerWritesBothPowerBits := fun p s =>
  ⟨isWordOf_flagWord (op := .setPower) rfl (by decide) rfl rfl rfl, _,
    exec_of_setter (op := .setPower) rfl (by decide) s,
    fun b _ hj => bit_recordAfter_setPower s.cfg s.record p b hj⟩

/-- The value of GET_POWER from the two power bits (R111). -/
theorem exec_getPower (s : State) :
    exec .getPower s = respond (boolVal (s.record.bit 0 3 && s.record.bit 2 3)) s := by
  have hand : s.record.get RecField.powerLow &&& s.record.get RecField.powerHigh =
      BitVec.ofBool (s.record.bit 0 3 && s.record.bit 2 3) := by
    rw [Record.get_eq_ofBool, Record.get_eq_ofBool, BitVec.ofBool_and_ofBool]
  exact congrArg (fun v => respond (zext v) s) hand

/-- A boolean result is 1 or 0 (R74). -/
theorem boolVal_eq_ite (b : Bool) : boolVal b = if b = true then 1#64 else 0#64 := by
  cases b <;> rfl

/-- Settles O20, from the two bits. -/
theorem getPowerIsTheAndOfBothBits : Obligations.GetPowerIsTheAndOfBothBits := by
  intro s
  refine ⟨isWordOf_encode (i := .getPower) (by decide), ?_⟩
  rw [exec_getPower, respond_eq, boolVal_eq_ite]
  simp only [Bool.and_eq_true]

/-- Settles O29: both power bits are `p` when GET_POWER runs. -/
theorem getPowerAfterSetPower : Obligations.GetPowerAfterSetPower := by
  intro p s
  have hset := exec_of_setter (i := .setPower p) (op := .setPower) rfl (by decide) s
  refine execAll_pair hset (exec_getPower _) ?_
  simp [bit_recordAfter_setPower, boolVal, zext]

/-! ### One-bit setters and plain getters -/

/-- A form F1 command whose meaning is the write of a one-bit field writes that bit alone (D26). -/
theorem writesOneBit_of_setBit {i : Bool → Instr} {base : Word} (f : RecField 1)
    (hword : ∀ v, IsWordOf (flagWord base v) (i v))
    (hexec : ∀ v s, exec (i v) s = setBit f v s) : WritesOneBit i base f.byte f.lo := fun v s =>
  ⟨hword v, _, hexec v s, fun b _ hj => Record.bit_put_bitOf s.record f v b hj⟩

/-- Settles O25, from the field of each command. -/
theorem oneBitSettersWriteTheirBit : Obligations.OneBitSettersWriteTheirBit :=
  ⟨writesOneBit_of_setBit RecField.sleep
      (fun _ => isWordOf_flagWord (op := .setSleep) rfl (by decide) rfl rfl rfl) fun _ _ => rfl,
    writesOneBit_of_setBit RecField.turbo
      (fun _ => isWordOf_flagWord (op := .setTurbo) rfl (by decide) rfl rfl rfl) fun _ _ => rfl,
    writesOneBit_of_setBit RecField.light
      (fun _ => isWordOf_flagWord (op := .setLight) rfl (by decide) rfl rfl rfl) fun _ _ => rfl,
    writesOneBit_of_setBit RecField.xfan
      (fun _ => isWordOf_flagWord (op := .setXfan) rfl (by decide) rfl rfl rfl) fun _ _ => rfl⟩

/-- A command of form Z whose meaning is the read of a field returns that field (R106). -/
theorem readsField_of_getField {i : Instr} {cw : Word} {w : Nat} (f : RecField w) (hf : i.opcode.form ≠ .raw)
    (hcw : (encode i).cw = cw) (hexec : ∀ s, exec i s = getField f s) : ReadsField i cw f.byte f.lo w := fun s =>
  ⟨hcw ▸ isWordOf_encode hf, hexec s⟩

/-- Settles O26, from the field of each command. -/
theorem gettersReturnTheirFieldAsStored : Obligations.GettersReturnTheirFieldAsStored :=
  ⟨readsField_of_getField RecField.mode (by decide) rfl fun _ => rfl,
    readsField_of_getField RecField.fan (by decide) rfl fun _ => rfl,
    readsField_of_getField RecField.swingAuto (by decide) rfl fun _ => rfl,
    readsField_of_getField RecField.swingPos (by decide) rfl fun _ => rfl,
    readsField_of_getField RecField.sleep (by decide) rfl fun _ => rfl,
    readsField_of_getField RecField.turbo (by decide) rfl fun _ => rfl,
    readsField_of_getField RecField.light (by decide) rfl fun _ => rfl,
    readsField_of_getField RecField.xfan (by decide) rfl fun _ => rfl⟩

/-- Settles O27: the code is a 4-bit number, so the sum does not wrap. -/
theorem getTempAddsTheOffset : Obligations.GetTempAddsTheOffset := by
  intro s
  refine ⟨isWordOf_encode (i := .getTemp) (by decide), _, respond_eq _ _, ?_⟩
  have hcode := (s.record.get RecField.temp).isLt
  have hvalue : (BitVec.ofNat 64 ((s.record.get RecField.temp).toNat + Config.tempOffset)).toNat =
      (s.record.get RecField.temp).toNat + 16 := by
    rw [BitVec.toNat_ofNat]
    exact Nat.mod_eq_of_lt (by simp only [Config.tempOffset]; omega)
  exact ⟨hvalue, by omega, by omega⟩

/-! ### The locks: SET_MODE, SET_TEMP and SET_FAN -/

/-- The known modes are 0 to 4 (R112). -/
theorem knownMode_iff (m : Nat) : knownMode m = true ↔ m ≤ 4 := by
  simp only [knownMode, Bool.or_eq_true, beq_iff_eq, Config.modeAuto, Config.modeCool, Config.modeDry,
    Config.modeFan, Config.modeHeat]
  omega

/-- The mode code SET_MODE stores (R112). -/
theorem modeCode_eq (m : Byte) : modeCode m.toNat = if m.toNat ≤ 4 then m.extractLsb' 0 3 else 0#3 := by
  simp only [modeCode, knownMode_iff]
  split
  · exact BitVec.eq_of_toNat_eq (by simp)
  · rfl

/-- When SET_MODE forces the temperature (R112). -/
theorem locksTemp_iff (c : Config) (m : Byte) :
    locksTemp c m.toNat = true ↔ m = 0#8 ∨ (4 < m.toNat ∧ c.substAutoLocksTemp = true) := by
  have hunknown : knownMode m.toNat = false ↔ 4 < m.toNat := by
    rw [← Bool.not_eq_true, knownMode_iff, Nat.not_le]
  simp [locksTemp, hunknown, BitVec.toNat_eq]

/-- When SET_MODE forces the fan (R112). -/
theorem locksFan_iff (m : Byte) : locksFan m.toNat = true ↔ m = 2#8 := by
  simp [locksFan, BitVec.toNat_eq]

/-- SET_MODE writes the mode code (R112). -/
theorem get_mode_withMode (c : Config) (m : Nat) (r : Record) :
    (withMode c m r).get RecField.mode = modeCode m :=
  Record.get_put_same _ _ _ (by decide)

/-- SET_MODE writes fan 1 where it locks the fan, and keeps the fan otherwise (R112). -/
theorem get_fan_withMode (c : Config) (m : Nat) (r : Record) :
    (withMode c m r).get RecField.fan = if locksFan m then 1#2 else r.get RecField.fan := by
  rw [withMode, Record.get_put_other _ _ _ _ (by decide) (by decide)]
  split
  · exact Record.get_put_same _ _ _ (by decide)
  · split
    · exact Record.get_put_other _ _ _ _ (by decide) (by decide)
    · rfl

/-- SET_MODE writes the code of 25 degrees where it locks the temperature, and keeps the code otherwise (R112). -/
theorem get_temp_withMode (c : Config) (m : Nat) (r : Record) :
    (withMode c m r).get RecField.temp = if locksTemp c m then autoTempCode else r.get RecField.temp := by
  have hlock : (if locksTemp c m then r.put RecField.temp autoTempCode else r).get RecField.temp =
      if locksTemp c m then autoTempCode else r.get RecField.temp := by
    split
    · exact Record.get_put_same _ _ _ (by decide)
    · rfl
  rw [withMode, Record.get_put_other _ _ _ _ (by decide) (by decide), ← hlock]
  split
  · exact Record.get_put_other _ _ _ _ (by decide) (by decide)
  · rfl

/-- SET_MODE keeps every bit outside the mode, the fan and the temperature code (R112). -/
theorem bit_withMode (c : Config) (m : Nat) (r : Record) {b : Fin 8} {j : Nat} (hj : j < 8)
    (hmode : ¬ (b = 0 ∧ j < 3)) (hfan : ¬ (b = 0 ∧ (j = 4 ∨ j = 5))) (htemp : ¬ (b = 1 ∧ j < 4)) :
    (withMode c m r).bit b j = r.bit b j := by
  have hfan' : ¬ (b = 0 ∧ 4 ≤ j ∧ j < 6) := by omega
  have hlock : (if locksTemp c m then r.put RecField.temp autoTempCode else r).bit b j = r.bit b j := by
    split
    · exact Record.bit_put_outside _ _ _ hj (by simpa using htemp)
    · rfl
  rw [withMode, Record.bit_put_outside _ _ _ hj (by simpa using hmode)]
  split
  · rw [Record.bit_put_outside _ _ _ hj hfan', hlock]
  · exact hlock

/-- Settles O21, field by field. -/
theorem setModeStoresModeAndLocks : Obligations.SetModeStoresModeAndLocks := by
  intro m s
  refine ⟨isWordOf_fieldA (op := .setMode) rfl (by decide) rfl rfl rfl,
    withMode s.cfg m.toNat s.record, exec_of_setter (op := .setMode) rfl (by decide) s, ?_, ?_, ?_,
    fun b j hj => bit_withMode s.cfg m.toNat s.record hj⟩
  · exact (get_mode_withMode _ _ _).trans (modeCode_eq m)
  · exact (get_fan_withMode _ _ _).trans (if_congr (locksFan_iff m) rfl rfl)
  · exact (get_temp_withMode _ _ _).trans (if_congr (locksTemp_iff s.cfg m) rfl rfl)

/-- The lock tests compare the stored mode code as it stands (R114, R116). -/
theorem modeIs_iff (r : Record) (code : BitVec 3) :
    modeIs r code.toNat = true ↔ r.get RecField.mode = code := by
  simp [modeIs, BitVec.toNat_eq]

/-- The temperature SET_TEMP stores: between 16 and 30, so its code does not wrap (R114). -/
theorem tempCode_toNat (r : Record) (t : Byte) :
    (tempCode r t).toNat + 16 = if r.get RecField.mode = 0#3 then 25 else min (max t.toNat 16) 30 := by
  have hauto : modeIs r Config.modeAuto = true ↔ r.get RecField.mode = 0#3 := modeIs_iff r 0#3
  simp only [tempCode, hauto, BitVec.toNat_ofNat, Config.tempOffset]
  split
  · rfl
  · omega

/-- Settles O22: SET_TEMP writes the temperature code alone. -/
theorem setTempClampsAndLocks : Obligations.SetTempClampsAndLocks := by
  intro t s
  refine ⟨isWordOf_fieldA (op := .setTemp) rfl (by decide) rfl rfl rfl,
    s.record.put RecField.temp (tempCode s.record t),
    exec_of_setter (op := .setTemp) rfl (by decide) s, ?_, fun b j hj htemp => ?_⟩
  · have hget := Record.get_put_same s.record RecField.temp (tempCode s.record t) (by decide)
    exact (congrArg (fun v => v.toNat + 16) hget).trans (tempCode_toNat s.record t)
  · exact Record.bit_put_outside _ _ _ hj (by simpa using htemp)

/-- The fan speed SET_FAN stores: at most 3, so it does not wrap (R116). -/
theorem fanSpeed_toNat (r : Record) (f : Byte) :
    (fanSpeed r f).toNat = if r.get RecField.mode = 2#3 then 1 else min f.toNat 3 := by
  have hdry : modeIs r Config.modeDry = true ↔ r.get RecField.mode = 2#3 := modeIs_iff r 2#3
  simp only [fanSpeed, hdry, BitVec.toNat_ofNat]
  split
  · rfl
  · omega

/-- Settles O23: SET_FAN writes the fan field alone. -/
theorem setFanClampsAndLocks : Obligations.SetFanClampsAndLocks := by
  intro f s
  refine ⟨isWordOf_fieldA (op := .setFan) rfl (by decide) rfl rfl rfl,
    s.record.put RecField.fan (fanSpeed s.record f),
    exec_of_setter (op := .setFan) rfl (by decide) s, ?_, fun b j hj hfan => ?_⟩
  · have hget := Record.get_put_same s.record RecField.fan (fanSpeed s.record f) (by decide)
    exact (congrArg BitVec.toNat hget).trans (fanSpeed_toNat s.record f)
  · have houtside : ¬ (b = 0 ∧ 4 ≤ j ∧ j < 6) := by omega
    exact Record.bit_put_outside _ _ _ hj houtside

/-! ### The tables of SET_SWING_V -/

/-- The table of the chosen mode (R118). -/
def swingTable (c : Config) (auto : Bool) : List (BitVec 4) := if auto then c.swingAutoSet else c.swingManualSet

/-- The generic code of the chosen mode (R118). -/
def swingGenericCode (c : Config) (auto : Bool) : BitVec 4 := if auto then c.swingAutoCode else c.swingLastPosCode

/-- SET_SWING_V looks the position up in the table of the chosen mode (R118). -/
theorem swingCode_eq (c : Config) (auto : Bool) (pos : Byte) :
    swingCode c auto pos =
      if inTable pos (swingTable c auto) then pos.setWidth 4 else swingGenericCode c auto := by
  cases auto <;> rfl

/-- A table has a position when one of its codes is that position (R118). -/
theorem inTable_iff (pos : Byte) (table : List (BitVec 4)) :
    inTable pos table = true ↔ ∃ p ∈ table, p.setWidth 8 = pos := by
  have hcode (p : BitVec 4) : p.toNat = pos.toNat ↔ p.setWidth 8 = pos := by
    rw [BitVec.toNat_eq, BitVec.toNat_setWidth_of_le (by decide)]
  simp [inTable, hcode]

/-- A position in the table is stored as it is (R118). -/
theorem swingCode_of_mem {c : Config} {auto : Bool} {p : BitVec 4} (h : p ∈ swingTable c auto) :
    swingCode c auto (p.setWidth 8) = p := by
  rw [swingCode_eq, if_pos ((inTable_iff _ _).2 ⟨p, h, rfl⟩)]
  exact BitVec.setWidth_setWidth_of_le p (by decide)

/-- A position the table does not have is stored as the generic code (R118). -/
theorem swingCode_of_not_mem {c : Config} {auto : Bool} {pos : Byte}
    (h : ∀ p ∈ swingTable c auto, p.setWidth 8 ≠ pos) : swingCode c auto pos = swingGenericCode c auto := by
  rw [swingCode_eq, if_neg]
  rw [inTable_iff]
  rintro ⟨p, hp, hpos⟩
  exact h p hp hpos

/-- Settles O24: the flag and the position are disjoint fields, and the table gives the code. -/
theorem setSwingVChecksItsTable : Obligations.SetSwingVChecksItsTable := by
  intro auto pos s
  have hget : (recordAfter s.cfg s.record (.setSwingV auto pos)).get RecField.swingPos = swingCode s.cfg auto pos :=
    Record.get_put_same _ _ _ (by decide)
  have hkept {b : Fin 8} {j : Nat} (hj : j < 8) (hpos : ¬ (b = 4 ∧ j < 4)) :
      (recordAfter s.cfg s.record (.setSwingV auto pos)).bit b j =
        (s.record.put RecField.swingAuto (bitOf auto)).bit b j :=
    Record.bit_put_outside _ _ _ hj (by simpa using hpos)
  refine ⟨?_, recordAfter s.cfg s.record (.setSwingV auto pos),
    exec_of_setter (op := .setSwingV) rfl (by decide) s, ?_, ?_, ?_, ?_⟩
  · rw [flagWord_eq]
    exact isWordOf_fields (op := .setSwingV) rfl (by decide) rfl rfl rfl
  · exact (hkept (by decide) (by decide)).trans (Record.bit_put_bitOf _ _ _ _ (by decide))
  · rintro p hp rfl
    exact hget.trans (swingCode_of_mem hp)
  · intro hnot
    exact hget.trans (swingCode_of_not_mem hnot)
  · intro b j hj hflag hpos
    rw [hkept hj hpos, Record.bit_put_bitOf _ _ _ _ hj, if_neg hflag]

end Sys2Proof.Machine

namespace Sys2Proof

/-! ### What CHECKSUM_FN depends on -/

/-- Writing one value to a field of two records that agree outside the field makes them equal (R10). -/
theorem Record.put_eq_put {w : Nat} {x y : Record} (f : RecField w) (v : BitVec w)
    (h : ∀ b j, j < 8 → ¬ (b = f.byte ∧ f.lo ≤ j ∧ j < f.lo + w) → x.bit b j = y.bit b j) :
    x.put f v = y.put f v := by
  refine Record.ext_bit fun b j hj => ?_
  rw [Record.bit_put _ _ _ _ _ hj, Record.bit_put _ _ _ _ _ hj]
  split
  · rfl
  · next houtside => exact h b j hj houtside

/-- Settles O30: with the checksum nibble cleared the two records are equal, and clearing it keeps CHECKSUM_FN (C2). -/
theorem checksumIgnoresItsOwnNibble : Obligations.ChecksumIgnoresItsOwnNibble := by
  intro c x y h
  have hcleared : x.put RecField.checksum 0#4 = y.put RecField.checksum 0#4 :=
    Record.put_eq_put _ _ fun b j hj houtside =>
      h b j hj fun ⟨hb, hlo⟩ => houtside ⟨hb, hlo, hj⟩
  calc c.checksumFn x
      = c.checksumFn (x.put RecField.checksum 0#4) := (c.checksumFn_put_checksum x _).symm
    _ = c.checksumFn (y.put RecField.checksum 0#4) := by rw [hcleared]
    _ = c.checksumFn y := c.checksumFn_put_checksum y _

/-- A fixed-up record passes the validity test (R152, R155). -/
theorem Config.checksumValid_fixup (c : Config) (x : Record) : c.checksumValid (c.fixup x) = true := by
  rw [Config.checksumValid_iff, Config.get_checksum_fixup, Config.checksumFn_fixup]

/-- The low nibble of a byte as a number (R8). -/
theorem toNat_lowNibble (b : Byte) : (b.extractLsb' 0 4).toNat = b.toNat % 16 := by
  simp

/-- The high nibble of a byte as a number (R8). -/
theorem toNat_highNibble (b : Byte) : (b.extractLsb' 4 4).toNat = b.toNat / 16 := by
  have hlt : b.toNat / 16 < 16 := by omega
  rw [BitVec.extractLsb'_toNat, Nat.shiftRight_eq_div_pow]
  exact Nat.mod_eq_of_lt hlt

/-- Settles O31, nibble by nibble. -/
theorem refChecksumIsTheNibbleSum : Obligations.RefChecksumIsTheNibbleSum := by
  intro c x href
  rw [Config.checksumFn_of_ref href, refChecksum, BitVec.toNat_ofNat]
  simp only [toNat_lowNibble, toNat_highNibble]
  exact Nat.mod_mod _ 16

end Sys2Proof

namespace Sys2Proof.Machine

/-! ### Checksum commands -/

/-- FIXUP writes the fixed-up record (R153). -/
theorem exec_fixup (s : State) : exec .fixup s = respond 0 (s.setRecord (s.cfg.fixup s.record)) := rfl

/-- CSUM_CALC answers CHECKSUM_FN of REC (R154). -/
theorem exec_csumCalc (s : State) : exec .csumCalc s = respond (zext (s.cfg.checksumFn s.record)) s := rfl

/-- CSUM_VALID_D answers the validity test of the caller's bytes (R156). -/
theorem exec_csumValidD (din : DWord) (s : State) :
    exec (.csumValidD din) s = respond (boolVal (s.cfg.checksumValid (unpack din))) s := rfl

/-- GET_RAW, FIXUP and SEND complete, leave REC fixed up and keep the configuration (R152). -/
theorem exec_of_fixer {i : Instr} (hi : i = .getRaw ∨ i = .fixup ∨ ∃ rep, i = .send rep) (s : State) :
    ∃ t, exec i s = .next t ∧ t.record = s.cfg.fixup s.record ∧ t.cfg = s.cfg := by
  obtain ⟨u, v, -, hrespond⟩ := exec_eq_respond i s
  have hexec := hrespond.trans (respond_eq v u)
  exact ⟨_, hexec, (exec_record hexec).trans (recordAfter_of_fixer _ _ hi), exec_cfg hexec⟩

/-- The response of a validity test: 1 when the stored nibble is CHECKSUM_FN of the record, 0 otherwise (R155, R156). -/
theorem boolVal_checksumValid (c : Config) (x : Record) :
    boolVal (c.checksumValid x) = if (x.byte 7).extractLsb' 4 4 = c.checksumFn x then 1#64 else 0#64 :=
  (boolVal_eq_ite _).trans (if_congr (c.checksumValid_iff x) rfl rfl)

/-- Settles O32: REC is fixed up already when the second FIXUP runs. -/
theorem fixupWritesTheChecksumNibble : Obligations.FixupWritesTheChecksumNibble := by
  intro s
  refine ⟨isWordOf_encode (i := .fixup) (by decide), s.cfg.fixup s.record, exec_fixup s,
    s.cfg.get_checksum_fixup s.record, s.cfg.bit_fixup s.record, fun t ht => ?_⟩
  obtain rfl := next_of_respond ((exec_fixup s).symm.trans ht)
  simp [exec_fixup, Config.fixup_fixup, respond_setRecord_idem]

/-- Settles O33: the fixup keeps CHECKSUM_FN. -/
theorem csumCalcReturnsTheChecksum : Obligations.CsumCalcReturnsTheChecksum := by
  intro s
  obtain ⟨t, hfixup, hrecord, hcfg⟩ := exec_of_fixer (i := .fixup) (.inr (.inl rfl)) s
  refine ⟨isWordOf_encode (i := .csumCalc) (by decide), exec_csumCalc s, execAll_pair hfixup (exec_csumCalc t) ?_⟩
  rw [hrecord, hcfg, Config.checksumFn_fixup]
  rfl

/-- Settles O34: a fixer leaves a record that passes the validity test. -/
theorem csumValidRecComparesTheNibble : Obligations.CsumValidRecComparesTheNibble := by
  intro s
  refine ⟨isWordOf_encode (i := .csumValidRec) (by decide), ?_, fun i hi => ?_⟩
  · rw [exec_csumValidRec, respond_eq, boolVal_checksumValid]
  · obtain ⟨t, hfixer, hrecord, hcfg⟩ := exec_of_fixer (or_left_comm.1 hi) s
    refine execAll_pair hfixer (exec_csumValidRec t) ?_
    rw [hrecord, hcfg, Config.checksumValid_fixup]
    rfl

/-- The word of an encoding, with the DIN of the command beside it, decodes to the command (R71, R83). -/
theorem decode_of_cw_encode {i : Instr} {cw : Word} (h : (encode i).cw = cw) : decode ⟨cw, i.dinOperand⟩ = .ok i :=
  h ▸ decode_encode i

/-- The word of CSUM_VALID_D, with DIN beside it (R71). -/
theorem decode_csumValidD (din : DWord) : decode ⟨0x07000000#32, din⟩ = .ok (.csumValidD din) :=
  decode_of_cw_encode (i := .csumValidD din) (cw_encode (o := .csumValidD) (a := 0#8) (imm := 0#16) rfl rfl rfl)

/-- Settles O35: the record tested is the unpacked DIN. -/
theorem csumValidDChecksTheCallersBytes : Obligations.CsumValidDChecksTheCallersBytes := by
  intro din s
  refine ⟨decode_csumValidD din, unpack din, byte_unpack din, ?_⟩
  rw [exec_csumValidD, respond_eq, boolVal_checksumValid]

end Sys2Proof.Machine

namespace Sys2Proof.Machine

/-! ### The captures that decode -/

/-- Steps 6 to 8 of R200 in the value the bit matcher reads at entry 74 (R195). -/
theorem matchSecondHalf_eq (c : Config) (rx : List Duration) :
    matchSecondHalf c rx 72 =
      if markAt c rx 72 c.tBitMark && atLeastAt c rx 73 c.tMsg then
        (matchValue c rx 32 74).filter fun _ => trailerOk c rx 138
      else none := by
  unfold matchSecondHalf matchBits
  cases matchValue c rx 32 74 <;> rfl

/-- Steps 3 to 8 of R200 in the values the bit matcher reads at entries 2 and 66 (R195). -/
theorem matchFrame_eq (c : Config) (rx : List Duration) :
    matchFrame c rx =
      if markAt c rx 0 c.tHdrMark && spaceAt c rx 1 c.tHdrSpace then
        (matchValue c rx 32 2).elim (.error .frameError) fun v1 =>
          (matchValue c rx 3 66).elim (.error .frameError) fun f =>
            if f = 0b010#3 then
              (matchSecondHalf c rx 72).elim (.error .frameError) fun v2 => .ok (assembleBlocks v1 v2)
            else .error .footerMismatch
      else .error .frameError := by
  unfold matchFrame matchBits
  cases matchValue c rx 32 2 with
  | none => rfl
  | some v1 =>
    simp only [Option.map, Option.elim]
    cases matchValue c rx 3 66 with
    | none => rfl
    | some f =>
      have hoffset : 2 + 2 * Config.blockBits + 2 * Config.footerBits = 72 := rfl
      simp only [hoffset]
      cases matchSecondHalf c rx 72 <;> rfl

/-- The second half passes with `v` exactly on a good gap, a block 2 that reads as `v` and a good trailer. -/
theorem matchSecondHalf_eq_some {c : Config} {rx : List Duration} {v : BitVec 32} :
    matchSecondHalf c rx 72 = some v ↔ GapOk c rx ∧ matchValue c rx 32 74 = some v ∧ TrailerOk c rx := by
  simp only [matchSecondHalf_eq, gap_iff, Option.ite_none_right_eq_some, Option.filter_eq_some_iff, trailerOk_iff]

/-- The frame passes with `y` exactly when its parts do and the two block values read make up `y`. -/
theorem matchFrame_eq_ok {c : Config} {rx : List Duration} {y : Record} :
    matchFrame c rx = .ok y ↔ HeaderOk c rx ∧ matchValue c rx 3 66 = some 0b010#3 ∧
      ∃ v1 v2, matchValue c rx 32 2 = some v1 ∧ matchSecondHalf c rx 72 = some v2 ∧ assembleBlocks v1 v2 = y := by
  rw [matchFrame_eq]
  by_cases hheader : HeaderOk c rx
  · rw [if_pos (header_iff.2 hheader)]
    cases matchValue c rx 32 2 with
    | none => simp
    | some v1 =>
      cases matchValue c rx 3 66 with
      | none => simp
      | some f => cases matchSecondHalf c rx 72 <;> by_cases hf : f = 0b010#3 <;> simp [hheader, hf]
  · rw [if_neg (mt header_iff.1 hheader)]
    simp [hheader]

/-- Every record is the record of two block values (R51, R200). -/
theorem exists_assembleBlocks (y : Record) : ∃ v1 v2, assembleBlocks v1 v2 = y := by
  refine ⟨.ofFnLE fun k => payloadBit y k, .ofFnLE fun k => payloadBit y (32 + k), ext_payloadBit fun p hp => ?_⟩
  by_cases hfirst : p < 32
  · simp [(payloadBit_assembleBlocks _ _ p hfirst).1, hfirst]
  · obtain ⟨k, rfl⟩ := Nat.exists_eq_add_of_le (Nat.not_lt.1 hfirst)
    have hk : k < 32 := by omega
    simp [(payloadBit_assembleBlocks _ _ k hk).2, hk]

/-- Block 1 reads as the record of two values exactly where the bit matcher reads the first of them (R51, R193). -/
theorem firstBlockIs_iff {c : Config} {rx : List Duration} {v1 v2 : BitVec 32} :
    FirstBlockIs c rx (assembleBlocks v1 v2) ↔ matchValue c rx 32 2 = some v1 := by
  rw [matchValue_eq_some]
  exact forall₂_congr fun k hk => by rw [(payloadBit_assembleBlocks v1 v2 k hk).1]

/-- Block 2 reads as the record of two values exactly where the bit matcher reads the second of them (R51, R193). -/
theorem secondBlockIs_iff {c : Config} {rx : List Duration} {v1 v2 : BitVec 32} :
    SecondBlockIs c rx (assembleBlocks v1 v2) ↔ matchValue c rx 32 74 = some v2 := by
  rw [matchValue_eq_some]
  exact forall₂_congr fun k hk => by rw [(payloadBit_assembleBlocks v1 v2 k hk).2]

/-- The footer reads as the value the bit matcher reads (R193). -/
theorem footerIs_iff {c : Config} {rx : List Duration} {v : BitVec 3} :
    FooterIs c rx v ↔ matchValue c rx 3 66 = some v := matchValue_eq_some.symm

/-- On a capture that is long enough the frame and then the strict check decide (R200). -/
theorem decodeCapture_of_lengthOk {c : Config} {strict : Bool} {n : Nat} {rx : List Duration}
    (h : LengthOk strict n rx) : decodeCapture c strict n rx = (matchFrame c rx).bind (strictCheck c strict) := by
  obtain ⟨hlength, hstrict⟩ := h
  have hlong : ¬ rx.length < minLen n := Nat.not_lt.2 hlength
  have hcanon : ¬ (strict && decide (n ≠ Config.canonBits)) = true := by simpa using hstrict
  rw [decodeCapture, if_neg hlong, if_neg hcanon]
  cases matchFrame c rx <;> rfl

/-- A decode that succeeds has passed steps 1 and 2 (R200). -/
theorem lengthOk_of_decodeCapture {c : Config} {strict : Bool} {n : Nat} {rx : List Duration} {y : Record}
    (h : decodeCapture c strict n rx = .ok y) : LengthOk strict n rx := by
  unfold decodeCapture at h
  split at h
  · cases h
  · next hlong =>
    split at h
    · cases h
    · next hcanon => exact ⟨Nat.not_lt.1 hlong, by simpa using hcanon⟩

/-- A decode succeeds with `y` exactly when the length is good, the frame is that of `y` and, in strict mode, the
checksum of `y` is right (R200). -/
theorem decodeCapture_eq_ok {c : Config} {strict : Bool} {n : Nat} {rx : List Duration} {y : Record} :
    decodeCapture c strict n rx = .ok y ↔ LengthOk strict n rx ∧ matchFrame c rx = .ok y ∧
      (strict = true → (y.byte 7).extractLsb' 4 4 = c.checksumFn y) := by
  by_cases hlength : LengthOk strict n rx
  · rw [decodeCapture_of_lengthOk hlength]
    cases matchFrame c rx with
    | error e => simp [Except.bind]
    | ok x => simp [Except.bind, hlength, strictCheck_eq_ok]
  · exact iff_of_false (mt lengthOk_of_decodeCapture hlength) fun h => hlength h.1

/-- A decode succeeds with `y` exactly on the captures that R200 accepts, index by index. -/
theorem decodeCapture_eq_ok_iff_accepts {c : Config} {strict : Bool} {n : Nat} {rx : List Duration} {y : Record} :
    decodeCapture c strict n rx = .ok y ↔ Accepts c strict n rx y := by
  rw [decodeCapture_eq_ok, matchFrame_eq_ok]
  constructor
  · rintro ⟨hlength, ⟨hheader, hfooter, v1, v2, hfirst, hrest, rfl⟩, hchecksum⟩
    obtain ⟨hgap, hsecond, htrailer⟩ := matchSecondHalf_eq_some.1 hrest
    exact ⟨hlength, hheader, firstBlockIs_iff.2 hfirst, footerIs_iff.2 hfooter, hgap, secondBlockIs_iff.2 hsecond,
      htrailer, hchecksum⟩
  · intro h
    obtain ⟨v1, v2, rfl⟩ := exists_assembleBlocks y
    exact ⟨h.length, ⟨h.header, footerIs_iff.1 h.footer, v1, v2, firstBlockIs_iff.1 h.first,
      matchSecondHalf_eq_some.2 ⟨h.gap, secondBlockIs_iff.1 h.second, h.trailer⟩, rfl⟩, h.checksum⟩

end Sys2Proof.Machine

namespace Sys2Proof.Machine

/-! ### A capture of a frame decodes to its record -/

/-- The capture begins with the durations of frame(X), of which the last may be missing (R78, R178). -/
structure BeginsWithFrame (c : Config) (x : Record) (rx : List Duration) : Prop where
  entries : ∀ k < 139, rx[k]? = some (tableItem c x k).dur
  last : rx.length ≤ 139 ∨ rx[139]? = some c.tMsg

/-- Duration `k` of a frame is the table's (R78). -/
theorem getElem?_durations_frame (c : Config) (x : Record) {k : Nat} (hk : k < 140) :
    (durations (frame c x))[k]? = some (tableItem c x k).dur := by
  rw [getElem?_durations, getElem?_frame c x hk, Option.map_some]

/-- A frame with anything after it. -/
theorem BeginsWithFrame.append (c : Config) (x : Record) (more : List Duration) :
    BeginsWithFrame c x (durations (frame c x) ++ more) := by
  have hentry {k : Nat} (hk : k < 140) : (durations (frame c x) ++ more)[k]? = some (tableItem c x k).dur := by
    rw [List.getElem?_append_left (by simpa using hk), getElem?_durations_frame c x hk]
  exact ⟨fun k hk => hentry (by omega), .inr (hentry (by decide))⟩

/-- A frame without its last item. -/
theorem BeginsWithFrame.take (c : Config) (x : Record) : BeginsWithFrame c x ((durations (frame c x)).take 139) := by
  refine ⟨fun k hk => ?_, .inl (List.length_take_le _ _)⟩
  rw [List.getElem?_take_of_lt hk, getElem?_durations_frame c x (by omega)]

/-- The two durations of a bit read as that bit: M1 for the mark, M2 for the space, and M3, by which the space of a
zero is not taken for that of a one (R191, R193). -/
theorem readsBit_of_bitSpace {c : Config} (hc : c.Contract) {rx : List Duration} {o : Nat} {b : Bool}
    (hmark : rx[o]? = some c.tBitMark) (hspace : rx[o + 1]? = some (bitSpace c b)) : ReadsBit c rx o b := by
  obtain ⟨⟨-, hbit⟩, ⟨-, hone, hzero⟩, hapart, -⟩ := hc
  refine ⟨_, _, hmark, hspace, hbit, ?_⟩
  cases b with
  | true => exact hone
  | false => exact ⟨hapart, hzero⟩

/-- Where a run of `n` bits stands in a capture, every bit of it is read (R76, R193). -/
theorem readsBit_of_run {c : Config} (hc : c.Contract) {rx : List Duration} {o n : Nat} {b : Nat → Bool}
    (h : ∀ j < 2 * n, rx[o + j]? = some (bitItem c b j).dur) : ∀ k < n, ReadsBit c rx (o + 2 * k) (b k) := by
  intro k hk
  have hmark := h (2 * k) (by omega)
  have hspace := h (2 * k + 1) (by omega)
  have hodd : (2 * k + 1) / 2 = k := by omega
  refine readsBit_of_bitSpace hc ?_ ?_
  · simpa [bitItem, mark] using hmark
  · simpa [bitItem, space, hodd, Nat.add_assoc] using hspace

/-- Under the matcher contract a capture that begins with a frame of `x` is accepted as `x` (R178, R200). -/
theorem accepts_of_beginsWithFrame {c : Config} {x : Record} {rx : List Duration} (hc : c.Contract)
    (hx : (x.byte 7).extractLsb' 4 4 = c.checksumFn x) (h : BeginsWithFrame c x rx) : Accepts c true 64 rx x := by
  obtain ⟨hentries, hlast⟩ := h
  have ⟨⟨hhdrMark, hbitMark⟩, ⟨hhdrSpace, _⟩, _, hgap, hmsg⟩ := hc
  have hlong : 138 < rx.length := (List.getElem?_eq_some_iff.1 (hentries 138 (by decide))).1
  exact {
    length := ⟨hlong, fun _ => rfl⟩
    header := ⟨_, _, hentries 0 (by decide), hentries 1 (by decide), hhdrMark, hhdrSpace⟩
    first := readsBit_of_run hc fun j hj => by rw [hentries _ (by omega), tableItem_first hj]
    footer := readsBit_of_run hc fun j hj => by rw [hentries _ (by omega), tableItem_footer hj]
    gap := ⟨_, _, hentries 72 (by decide), hentries 73 (by decide), hbitMark, hgap⟩
    second := readsBit_of_run hc fun j hj => by rw [hentries _ (by omega), tableItem_second hj]
    trailer := ⟨⟨_, hentries 138 (by decide), hbitMark⟩, hlast.imp_right fun hspace => ⟨_, hspace, hmsg⟩⟩
    checksum := fun _ => hx }

/-- Settles O44: such a capture begins with the frame, so it is accepted as `x`. -/
theorem strictDecodeInvertsTheFrame : Obligations.StrictDecodeInvertsTheFrame := by
  intro s x hc hx hrx
  have hbegins : BeginsWithFrame s.cfg x s.rx := by
    obtain ⟨more, h⟩ | h := hrx
    · exact h ▸ .append s.cfg x more
    · exact h ▸ .take s.cfg x
  exact execDecode_ok (decodeCapture_eq_ok_iff_accepts.2 (accepts_of_beginsWithFrame hc hx hbegins))

/-! ### SEND looped back -/

/-- A transmission begins with a frame (R172). -/
theorem exists_transmission_eq_append (c : Config) (x : Record) (r : Nat) :
    ∃ rest, transmission c x r = frame c x ++ rest := by
  cases r with
  | zero => exact ⟨[], by rw [transmission_zero, List.append_nil]⟩
  | succ r => exact ⟨_, transmission_succ c x r⟩

/-- SEND writes the fixed-up record and appends `rep + 1` frames of it (R177). -/
theorem exec_send (rep : Half) (s : State) :
    exec (.send rep) s = .next { s with
      record := s.cfg.fixup s.record
      tx := s.tx ++ transmission s.cfg (s.cfg.fixup s.record) rep.toNat
      rsp := some ⟨.done, 0#64⟩ } := rfl

/-- Settles O45: what SEND appends begins with the frame of the fixed-up record, whose checksum is right. -/
theorem sendLoopedBackDecodesToTheRecord : Obligations.SendLoopedBackDecodesToTheRecord := by
  intro rep s hc
  refine ⟨_, _, exec_send rep s, rfl, ?_⟩
  have hvalid := (s.cfg.checksumValid_iff _).1 (s.cfg.checksumValid_fixup s.record)
  obtain ⟨rest, hrest⟩ := exists_transmission_eq_append s.cfg (s.cfg.fixup s.record) rep.toNat
  refine strictDecodeInvertsTheFrame _ (s.cfg.fixup s.record) hc hvalid (.inl ⟨durations rest, ?_⟩)
  rw [hrest, durations_append]

/-! ### The shape of TX -/

/-- The duration of an item of a run of bits is a bit mark or the space of a bit (R76). -/
theorem bitItem_dur_mem (c : Config) (b : Nat → Bool) (k : Nat) : (bitItem c b k).dur ∈ timingConstants c := by
  unfold bitItem bitSpace
  split_ifs <;> simp [mark, space, timingConstants]

/-- Every duration of a frame is one of the seven timing constants (R173). -/
theorem frame_dur_mem (c : Config) (x : Record) : ∀ item ∈ frame c x, item.dur ∈ timingConstants c := by
  simp only [frame_eq_runs, emitRun_eq_map, List.forall_mem_append, List.forall_mem_map, List.forall_mem_cons,
    bitItem_dur_mem]
  simp [mark, space, timingConstants]

/-- A transmission is whole frames (R173). -/
theorem WholeFrames.transmission (c : Config) (x : Record) (r : Nat) : WholeFrames c (transmission c x r) where
  frames := by rw [length_transmission, Nat.mul_mod_right]
  alternates := alternates_transmission c x r
  constants := fun item h => frame_dur_mem c x item (mem_transmission h)

/-- An even number of items that alternate from a mark can be followed by more that do (R78). -/
theorem Alternates.append {a b : List Item} (ha : Alternates a) (heven : a.length % 2 = 0) (hb : Alternates b) :
    Alternates (a ++ b) := by
  intro k item hitem
  by_cases hk : k < a.length
  · rw [List.getElem?_append_left hk] at hitem
    exact ha k item hitem
  · rw [List.getElem?_append_right (Nat.not_lt.1 hk)] at hitem
    have hpar : (k - a.length) % 2 = k % 2 := by omega
    rw [hb _ item hitem, hpar]

/-- Whole frames after whole frames are whole frames (R173). -/
theorem WholeFrames.append {c : Config} {a b : List Item} (ha : WholeFrames c a) (hb : WholeFrames c b) :
    WholeFrames c (a ++ b) where
  frames := by
    rw [List.length_append, Nat.add_mod, ha.frames, hb.frames]
  alternates := ha.alternates.append (by have := ha.frames; omega) hb.alternates
  constants := fun item h => (List.mem_append.1 h).elim (ha.constants item) (hb.constants item)

/-! ### The invariant -/

/-- None of the changes a command makes breaks the invariant: frames go out whole (R60, R173). -/
theorem CommandEffect.inv {s u : State} (h : CommandEffect s u) (hs : Inv s) : Inv u := by
  obtain ⟨hcfg, htx, hrx, hinputs, hrsp⟩ := hs
  cases h with
  | kept | recordWritten | decoded | decodeFailed => exact ⟨hcfg, htx, hrx, hinputs, hrsp⟩
  | transmitted r rep => exact ⟨hcfg, htx.append (.transmission s.cfg r rep.toNat), hrx, hinputs, hrsp⟩

/-- A response keeps the invariant when its value is 0 or its code is DONE (R81). -/
theorem Inv.setRsp {s : State} (h : Inv s) {r : Response} (hr : r.code = .illegal → r.val = 0#64) :
    Inv (s.setRsp r) :=
  { h with rspOk := fun _ e => Option.some.inj e ▸ hr }

/-- Taking the first input keeps the invariant (R28). -/
theorem Inv.setInputs {s : State} {i : Input} {rest : List Input} (h : Inv s) (hi : s.inputs = i :: rest) :
    Inv (s.setInputs rest) :=
  { h with inputsOk := fun j hj => h.inputsOk j (hi ▸ List.mem_cons_of_mem i hj) }

/-- A presented command, legal or not, keeps the invariant (R81, R104). -/
theorem Inv.runCommand {c : Command} {s t : State} (hs : Inv s) (h : runCommand c s = .next t) : Inv t := by
  cases hd : decode c with
  | ok i =>
    rw [runCommand_ok hd] at h
    obtain ⟨u, v, hu, rfl⟩ := effect_of_exec h
    exact (hu.inv hs).setRsp nofun
  | error e =>
    rw [runCommand_error hd] at h
    cases h
    exact hs.setRsp fun _ => rfl

/-- Settles O58, by the kind of input the step takes; for a command, by the change the command makes. -/
theorem stepKeepsTheInvariant : Obligations.StepKeepsTheInvariant := by
  intro s t hs h
  match hi : s.inputs with
  | [] =>
    rw [step_nil hi] at h
    cases h
    exact { hs with rspOk := nofun }
  | .command c :: rest =>
    rw [step_command hi] at h
    exact (hs.setInputs hi).runCommand h
  | .capture rx :: rest =>
    rw [step_capture hi] at h
    cases h
    have hrx : s.cfg.CaptureOk rx := hs.inputsOk (.capture rx) (hi ▸ List.mem_cons_self)
    exact { hs.setInputs hi with rxOk := hrx, rspOk := nofun }
  | .powerOn :: rest =>
    rw [step_powerOn hi] at h
    cases h
    exact { hs.setInputs hi with txOk := .nil s.cfg, rspOk := nofun }

/-! ### What ENCODE and SEND append -/

/-- The items that SEND, or an ENCODE long enough, appends are a transmission (R175, R177). -/
theorem exists_sentItems_eq_transmission {i : Instr} {rep : Half} (c : Config) (r : Record)
    (hi : i = .send rep ∨ ∃ len : Byte, 8 ≤ len.toNat ∧ i = .encode len rep) :
    ∃ x, sentItems c r i = transmission c x rep.toNat := by
  obtain rfl | ⟨len, hlen, rfl⟩ := hi
  · exact ⟨c.fixup r, rfl⟩
  · exact ⟨r, if_neg (Nat.not_lt.2 hlen)⟩

/-- Settles O39, from the length and the items of a transmission. -/
theorem transmissionSizeAndShape : Obligations.TransmissionSizeAndShape := by
  intro i rep s hi
  obtain ⟨u, v, -, hrespond⟩ := exec_eq_respond i s
  have hexec := hrespond.trans (respond_eq v u)
  obtain ⟨x, hitems⟩ := exists_sentItems_eq_transmission s.cfg s.record hi
  have hlength := length_transmission s.cfg x rep.toNat
  refine ⟨_, transmission s.cfg x rep.toNat, hexec, hitems ▸ exec_tx hexec, hlength, ?_,
    alternates_transmission s.cfg x rep.toNat, fun item h => frame_dur_mem s.cfg x item (mem_transmission h)⟩
  rintro rfl
  exact hlength

/-! ### The words of ENCODE and SEND -/

/-- A word from its fields OPC, A and IMM16 (R70). -/
theorem fields_imm_eq_or (o a : Byte) (imm : Half) :
    o ++ a ++ imm = o.setWidth 32 <<< 24 ||| a.setWidth 32 <<< 16 ||| imm.setWidth 32 := by
  refine BitVec.eq_of_getLsbD_eq fun j hj => ?_
  simp only [BitVec.getLsbD_append, BitVec.getLsbD_or, BitVec.getLsbD_shiftLeft, BitVec.getLsbD_setWidth]
  grind

/-- The word of a command with fields A and IMM16: each operand in its place on the base word (R71). -/
theorem isWordOf_imm {i : Instr} {op : Opcode} {base : Word} {a : Byte} {imm : Half} (ho : i.opcode = op)
    (hf : op.form ≠ .raw) (hbase : op.code.setWidth 32 <<< 24 = base) (ha : i.wordA = a) (hi : i.wordImm = imm) :
    IsWordOf (base ||| a.setWidth 32 <<< 16 ||| imm.setWidth 32) i := by
  have hcw : (encode i).cw = base ||| a.setWidth 32 <<< 16 ||| imm.setWidth 32 := by
    rw [cw_encode ho ha hi, fields_imm_eq_or, hbase]
  exact hcw ▸ isWordOf_encode (ho ▸ hf)

/-- Settles O37: LEN decides whether the frames go out. -/
theorem encodeAppendsFramesOrNothing : Obligations.EncodeAppendsFramesOrNothing := fun len rep s =>
  ⟨isWordOf_imm (op := .encode) rfl (by decide) rfl rfl rfl,
    fun hshort => congrArg (respond 0) (if_pos hshort),
    fun hlong => congrArg (respond 0) (if_neg (Nat.not_lt.2 hlong))⟩

/-- The word of SEND (R71). -/
theorem isWordOf_send (rep : Half) : IsWordOf (0x31000000#32 ||| rep.setWidth 32) (.send rep) := by
  have hword : IsWordOf (0x31000000#32 ||| (0#8).setWidth 32 <<< 16 ||| rep.setWidth 32) (.send rep) :=
    isWordOf_imm (op := .send) rfl (by decide) rfl rfl rfl
  simpa using hword

/-- Settles O38, from what the fixup writes and keeps. -/
theorem sendFixesUpThenTransmits : Obligations.SendFixesUpThenTransmits := fun rep s =>
  ⟨isWordOf_send rep, s.cfg.fixup s.record, exec_send rep s, s.cfg.get_checksum_fixup s.record,
    s.cfg.bit_fixup s.record⟩

end Sys2Proof.Machine

namespace Sys2Proof.Machine

/-! ### What DECODE answers -/

/-- The word of DECODE (R71). -/
theorem isWordOf_decode (strict : Bool) (nbits : Half) :
    IsWordOf (flagWord 0x40000000#32 strict ||| nbits.setWidth 32) (.decode strict nbits) := by
  rw [flagWord_eq]
  exact isWordOf_imm (op := .decode) rfl (by decide) rfl rfl rfl

/-- DECODE answers result 1 with `y` exactly when the capture decodes to `y` (R200, R204). -/
theorem exec_decode_eq_success_iff {strict : Bool} {n : Half} {s : State} {y : Record} :
    exec (.decode strict n) s = .next { s with decRec := y, decBits := 64#16, rsp := some ⟨.done, 1#64⟩ } ↔
      decodeCapture s.cfg strict n.toNat s.rx = .ok y := by
  refine ⟨fun h => ?_, execDecode_ok⟩
  cases hd : decodeCapture s.cfg strict n.toNat s.rx with
  | ok x =>
    have hnext := Host.Outcome.next.inj ((execDecode_ok hd).symm.trans h)
    exact congrArg Except.ok (congrArg State.decRec hnext)
  | error e =>
    have hnext := Host.Outcome.next.inj ((execDecode_error hd).symm.trans h)
    exact absurd (congrArg State.rsp hnext) (by simp)

/-- A capture that decodes to no record is refused: result 0, and only the decoder output is left free (R204). -/
theorem exec_decode_of_no_record {strict : Bool} {n : Half} {s : State}
    (h : ∀ y, decodeCapture s.cfg strict n.toNat s.rx ≠ .ok y) :
    ∃ y m k, exec (.decode strict n) s =
      .next { s with decRec := y, decBits := m, freeIdx := k, rsp := some ⟨.done, 0#64⟩ } := by
  cases hd : decodeCapture s.cfg strict n.toNat s.rx with
  | ok y => exact absurd hd (h y)
  | error e => exact ⟨_, _, _, (execDecode_error hd).trans (decodeFail_eq s)⟩

/-- Settles O42: a capture decodes to `y` exactly when it is accepted as `y`. -/
theorem decodeAcceptsExactlyTheFrames : Obligations.DecodeAcceptsExactlyTheFrames := fun strict nbits _ =>
  ⟨isWordOf_decode strict nbits, fun _ h => execDecode_ok (decodeCapture_eq_ok_iff_accepts.2 h),
    fun hnone => exec_decode_of_no_record fun y h => hnone ⟨y, decodeCapture_eq_ok_iff_accepts.1 h⟩⟩

/-- Steps 1 and 2 of R200 in strict mode are those of lenient mode and NBITS 64 (R203). -/
theorem lengthOk_strict_iff {n : Nat} {rx : List Duration} :
    LengthOk true n rx ↔ n = 64 ∧ LengthOk false n rx := by
  simp [LengthOk, and_comm]

/-- Settles O46: of the steps of a decode only 2 and 9 depend on the mode. -/
theorem strictIsLenientPlusTwoChecks : Obligations.StrictIsLenientPlusTwoChecks := by
  intro n s y
  have hbits : n = 64#16 ↔ n.toNat = 64 := BitVec.toNat_eq
  rw [exec_decode_eq_success_iff, exec_decode_eq_success_iff, decodeCapture_eq_ok, decodeCapture_eq_ok,
    lengthOk_strict_iff, hbits]
  constructor
  · rintro ⟨⟨h64, hlength⟩, hframe, hchecksum⟩
    exact ⟨h64, hchecksum rfl, hlength, hframe, nofun⟩
  · rintro ⟨h64, hchecksum, hlength, hframe, -⟩
    exact ⟨⟨h64, hlength⟩, hframe, fun _ => hchecksum⟩

/-- A footer reads as at most one value (R193). -/
theorem FooterIs.unique {c : Config} {rx : List Duration} {v v' : BitVec 3} (h : FooterIs c rx v)
    (h' : FooterIs c rx v') : v = v' :=
  BitVec.eq_of_getLsbD_eq fun k hk => (h k hk).unique (h' k hk)

/-- Settles O47: an accepted capture has the footer 0b010, and a footer reads as one value alone. -/
theorem wrongFooterIsRefused : Obligations.WrongFooterIsRefused := fun _ _ _ _ hv hfooter =>
  exec_decode_of_no_record fun _ h => hv (hfooter.unique (decodeCapture_eq_ok_iff_accepts.1 h).footer)

/-! ### The entries a DECODE reads -/

section Take

variable {c : Config} {rx : List Duration} {m : Nat}

/-- A mark test does not see a cut behind its entry. -/
theorem markAt_take {j : Nat} (hj : j < m) (e : Duration) : markAt c (rx.take m) j e = markAt c rx j e := by
  rw [markAt, markAt, List.getElem?_take_of_lt hj]

/-- A space test does not see a cut behind its entry. -/
theorem spaceAt_take {j : Nat} (hj : j < m) (e : Duration) : spaceAt c (rx.take m) j e = spaceAt c rx j e := by
  rw [spaceAt, spaceAt, List.getElem?_take_of_lt hj]

/-- A minimum test does not see a cut behind its entry. -/
theorem atLeastAt_take {j : Nat} (hj : j < m) (e : Duration) :
    atLeastAt c (rx.take m) j e = atLeastAt c rx j e := by
  rw [atLeastAt, atLeastAt, List.getElem?_take_of_lt hj]

/-- The bit matcher reads two entries (R193). -/
theorem matchBit_take {o : Nat} (ho : o + 1 < m) : matchBit c (rx.take m) o = matchBit c rx o := by
  simp only [matchBit, markAt_take (Nat.lt_of_succ_lt ho), spaceAt_take ho]

/-- The matcher of `n` bits reads `2 n` entries (R193). -/
theorem matchValue_take {n o : Nat} (ho : o + 2 * n ≤ m) : matchValue c (rx.take m) n o = matchValue c rx n o := by
  induction n generalizing o with
  | zero => rfl
  | succ n ih => rw [matchValue, matchValue, matchBit_take (by omega), ih (by omega)]

/-- The trailer test looks at two entries, and at the length only as far as them (R197). -/
theorem trailerOk_take {o : Nat} (ho : o + 1 < m) : trailerOk c (rx.take m) o = trailerOk c rx o := by
  have hends : (rx.take m).length ≤ o + 1 ↔ rx.length ≤ o + 1 := by
    rw [List.length_take]
    omega
  simp only [trailerOk, markAt_take (Nat.lt_of_succ_lt ho), atLeastAt_take ho, hends]

end Take

/-- A frame is 140 entries (R195). -/
theorem matchFrame_take (c : Config) (rx : List Duration) : matchFrame c (rx.take 140) = matchFrame c rx := by
  simp [matchFrame_eq, matchSecondHalf_eq, markAt_take, spaceAt_take, atLeastAt_take, matchValue_take,
    trailerOk_take]

/-- With NBITS at most 64 neither the length check nor the frame sees a cut after 140 entries (R194, R195). -/
theorem decodeCapture_take (c : Config) (strict : Bool) {n : Nat} (hn : n ≤ 64) (rx : List Duration) :
    decodeCapture c strict n (rx.take 140) = decodeCapture c strict n rx := by
  have hshort : (rx.take 140).length < minLen n ↔ rx.length < minLen n := by
    simp only [List.length_take, minLen, Config.hdrUnits, Config.ftrUnits]
    omega
  simp only [decodeCapture, hshort, matchFrame_take]

/-- Two captures that decode alike are answered alike, but for RX itself (R200, R204). -/
theorem exec_decode_of_decodeCapture_eq {strict : Bool} {n : Half} {s t : State} {rx : List Duration}
    (hrx : decodeCapture s.cfg strict n.toNat rx = decodeCapture s.cfg strict n.toNat s.rx)
    (h : exec (.decode strict n) s = .next t) :
    exec (.decode strict n) { s with rx := rx } = .next { t with rx := rx } := by
  cases hd : decodeCapture s.cfg strict n.toNat s.rx with
  | ok y =>
    cases (execDecode_ok hd).symm.trans h
    exact execDecode_ok (hrx.trans hd)
  | error e =>
    cases (execDecode_error hd).symm.trans h
    exact execDecode_error (s := { s with rx := rx }) (hrx.trans hd)

/-- Settles O48: the capture decodes as it does without its entries from 140 on. -/
theorem entriesFrom140AreNotRead : Obligations.EntriesFrom140AreNotRead := fun strict _ s _ hn =>
  exec_decode_of_decodeCapture_eq (decodeCapture_take s.cfg strict hn s.rx)

/-! ### The cause of a failure -/

/-- A frame that fails, fails with FrameError or FooterMismatch (R202). -/
theorem cause_of_matchFrame {c : Config} {rx : List Duration} {e : DecodeCause} (h : matchFrame c rx = .error e) :
    e = .frameError ∨ e = .footerMismatch := by
  rw [matchFrame_eq] at h
  split at h
  · cases hfirst : matchValue c rx 32 2 with
    | none => exact .inl (by simpa [hfirst] using h.symm)
    | some v1 =>
      cases hfooter : matchValue c rx 3 66 with
      | none => exact .inl (by simpa [hfirst, hfooter] using h.symm)
      | some f =>
        simp only [hfirst, hfooter, Option.elim_some] at h
        split at h
        · cases hsecond : matchSecondHalf c rx 72 with
          | none => exact .inl (by simpa [hsecond] using h.symm)
          | some v2 => simp [hsecond] at h
        · exact .inr (Except.error.inj h).symm
  · exact .inl (Except.error.inj h).symm

/-- A capture below the minimum length is TooShort (R200 step 1). -/
theorem decodeCapture_of_short {c : Config} {strict : Bool} {n : Nat} {rx : List Duration}
    (h : rx.length < 2 * n + 11) : decodeCapture c strict n rx = .error .tooShort := if_pos h

/-- In strict mode a bit count other than 64 is a StrictMismatch before any duration is looked at (R200 step 2). -/
theorem decodeCapture_of_strict_mismatch {c : Config} {n : Nat} {rx : List Duration} (hlong : 2 * n + 11 ≤ rx.length)
    (hn : n ≠ 64) : decodeCapture c true n rx = .error .strictMismatch := by
  have hmin : ¬ rx.length < minLen n := Nat.not_lt.2 hlong
  rw [decodeCapture, if_neg hmin, if_pos (by simpa using hn)]

/-- A bad header is a FrameError (R200 step 3). -/
theorem matchFrame_of_not_header {c : Config} {rx : List Duration} (h : ¬ HeaderOk c rx) :
    matchFrame c rx = .error .frameError := by
  rw [matchFrame_eq, if_neg (mt header_iff.1 h)]

/-- A bad bit in block 1 is a FrameError, whatever the footer (R200 step 4, R201). -/
theorem matchFrame_of_bad_first {c : Config} {rx : List Duration} (h : matchValue c rx 32 2 = none) :
    matchFrame c rx = .error .frameError := by
  rw [matchFrame_eq, h]
  exact ite_self _

/-- A bad bit in the footer is a FrameError (R200 step 5, R202). -/
theorem matchFrame_of_bad_footer {c : Config} {rx : List Duration} (h : matchValue c rx 3 66 = none) :
    matchFrame c rx = .error .frameError := by
  rw [matchFrame_eq, h]
  cases matchValue c rx 32 2 <;> exact ite_self _

/-- After a good header and block 1 a wrong footer value is a FooterMismatch, whatever follows (R200 step 5, R201). -/
theorem matchFrame_of_wrong_footer {c : Config} {rx : List Duration} {y : Record} {v : BitVec 3}
    (hheader : HeaderOk c rx) (hfirst : FirstBlockIs c rx y) (hfooter : FooterIs c rx v) (hv : v ≠ 0b010#3) :
    matchFrame c rx = .error .footerMismatch := by
  obtain ⟨v1, v2, rfl⟩ := exists_assembleBlocks y
  rw [matchFrame_eq, if_pos (header_iff.2 hheader), firstBlockIs_iff.1 hfirst, footerIs_iff.1 hfooter]
  exact if_neg hv

/-- After the right footer value a bad second half is a FrameError (R200 steps 6 to 8). -/
theorem matchFrame_of_bad_second_half {c : Config} {rx : List Duration} (hfooter : FooterIs c rx 0b010#3)
    (h : matchSecondHalf c rx 72 = none) : matchFrame c rx = .error .frameError := by
  rw [matchFrame_eq, footerIs_iff.1 hfooter, h]
  cases matchValue c rx 32 2 <;> exact ite_self _

/-- A bad gap, a bad bit in block 2 or a bad trailer spoils the second half (R200 steps 6 to 8). -/
theorem matchSecondHalf_eq_none {c : Config} {rx : List Duration}
    (h : ¬ GapOk c rx ∨ matchValue c rx 32 74 = none ∨ ¬ TrailerOk c rx) : matchSecondHalf c rx 72 = none := by
  refine Option.eq_none_iff_forall_ne_some.2 fun v hv => ?_
  obtain ⟨hgap, hsecond, htrailer⟩ := matchSecondHalf_eq_some.1 hv
  obtain h | h | h := h
  · exact h hgap
  · simp [hsecond] at h
  · exact h htrailer

/-- After steps 1 and 2 the cause of a bad frame is that of the decode (R201). -/
theorem decodeCapture_of_bad_frame {c : Config} {strict : Bool} {n : Nat} {rx : List Duration} {e : DecodeCause}
    (hlength : LengthOk strict n rx) (h : matchFrame c rx = .error e) : decodeCapture c strict n rx = .error e := by
  rw [decodeCapture_of_lengthOk hlength, h]
  rfl

/-- In strict mode a wrong checksum is a ChecksumError (R200 step 9). -/
theorem strictCheck_of_wrong_checksum {c : Config} {y : Record}
    (h : (y.byte 7).extractLsb' 4 4 ≠ c.checksumFn y) : strictCheck c true y = .error .checksumError :=
  if_neg (mt (c.checksumValid_iff y).1 h)

/-- In strict mode a capture accepted but for its checksum is a ChecksumError (R201, R203). -/
theorem decodeCapture_of_wrong_checksum {c : Config} {rx : List Duration} {y : Record}
    (h : Accepts c false 64 rx y) (hy : (y.byte 7).extractLsb' 4 4 ≠ c.checksumFn y) :
    decodeCapture c true 64 rx = .error .checksumError := by
  obtain ⟨hlength, hframe, -⟩ := decodeCapture_eq_ok.1 (decodeCapture_eq_ok_iff_accepts.2 h)
  rw [decodeCapture_of_lengthOk (lengthOk_strict_iff.2 ⟨rfl, hlength⟩), hframe]
  exact strictCheck_of_wrong_checksum hy

/-- The strict check never fails with LengthError: a matched frame has 64 bits (R198). -/
theorem strictCheck_ne_lengthError (c : Config) (strict : Bool) (y : Record) :
    strictCheck c strict y ≠ .error .lengthError := by
  have hbits : ¬ decodedBits ≠ Config.canonBits := by decide
  rw [strictCheck, if_neg hbits]
  split_ifs <;> simp

/-- No step of a decode fails with LengthError (R198, R201). -/
theorem decodeCapture_ne_lengthError (c : Config) (strict : Bool) (n : Nat) (rx : List Duration) :
    decodeCapture c strict n rx ≠ .error .lengthError := by
  rw [decodeCapture]
  split_ifs
  · simp
  · simp
  · cases h : matchFrame c rx with
    | error e => obtain rfl | rfl := cause_of_matchFrame h <;> simp
    | ok y => exact strictCheck_ne_lengthError c strict y

/-- Settles O43, step by step. -/
theorem decodeChecksInOrder : Obligations.DecodeChecksInOrder := by
  intro c strict n rx
  refine ⟨decodeCapture_of_short, fun hlong hstrict hn => hstrict ▸ decodeCapture_of_strict_mismatch hlong hn,
    fun hlength hheader => decodeCapture_of_bad_frame hlength (matchFrame_of_not_header hheader),
    fun hlength hbit => decodeCapture_of_bad_frame hlength (matchFrame_of_bad_first (matchValue_eq_none.2 hbit)),
    fun hlength _ _ hbit => decodeCapture_of_bad_frame hlength (matchFrame_of_bad_footer (matchValue_eq_none.2 hbit)),
    ?_, fun hlength hfooter hbad => ?_, ?_, decodeCapture_ne_lengthError c strict n rx⟩
  · rintro hlength hheader ⟨y, hfirst⟩ ⟨v, hv, hfooter⟩
    exact decodeCapture_of_bad_frame hlength (matchFrame_of_wrong_footer hheader hfirst hfooter hv)
  · have hhalf := matchSecondHalf_eq_none (hbad.imp_right (Or.imp_left matchValue_eq_none.2))
    exact decodeCapture_of_bad_frame hlength (matchFrame_of_bad_second_half hfooter hhalf)
  · rintro y h rfl rfl hy
    exact decodeCapture_of_wrong_checksum h hy

/-! ### GET_DEC and GET_DEC_BITS -/

/-- Settles O49, from the packing of a record. -/
theorem getDecReturnsDecRec : Obligations.GetDecReturnsDecRec := fun s =>
  ⟨isWordOf_encode (i := .getDec) (by decide), _, respond_eq s.decRec.pack s, s.decRec.extract_pack⟩

/-- Settles O50: the command is a response alone. -/
theorem getDecBitsReturnsDecBits : Obligations.GetDecBitsReturnsDecBits := fun s =>
  ⟨isWordOf_encode (i := .getDecBits) (by decide), respond_eq (zext s.decBits) s⟩

end Sys2Proof.Machine

namespace Sys2Proof

/-! ### The windows of REF_MATCH -/

/-- A mark of REF_MATCH is in the window around the expected duration and the excess (R192). -/
theorem refMatchMark_iff {d e : Duration} :
    refMatchMark d e = true ↔ refLow (e + refExc) ≤ d ∧ d ≤ refHigh (e + refExc) := by
  simp [refMatchMark]

/-- A space of REF_MATCH is in the window around the expected duration less the excess (R192). -/
theorem refMatchSpace_iff {d e : Duration} :
    refMatchSpace d e = true ↔ refLow (e - refExc) ≤ d ∧ d ≤ refHigh (e - refExc) := by
  simp [refMatchSpace]

/-- The default profile meets the matcher contract (R191). -/
theorem contract_ref : Config.ref.Contract := by decide

/-- Settles O51: each window is that of its expected duration. -/
theorem refMatchWindows : Obligations.RefMatchWindows :=
  ⟨contract_ref, fun _ => ⟨refMatchMark_iff, refMatchMark_iff, refMatchSpace_iff, refMatchSpace_iff,
    refMatchSpace_iff, decide_eq_true_iff⟩⟩

end Sys2Proof

namespace Sys2Proof.Machine

/-! ### Every command completes -/

/-- A command that executes ends with DONE (R73, R230). -/
theorem exec_done (i : Instr) (s : State) : ∃ t v, exec i s = .next t ∧ t.rsp = some ⟨.done, v⟩ := by
  obtain ⟨u, v, -, he⟩ := exec_eq_respond i s
  exact ⟨u.setRsp ⟨.done, v⟩, v, he, rfl⟩

/-- A presented command ends with a response, ILLEGAL exactly when its word does not decode (R73, R81, R230). -/
theorem runCommand_response (c : Command) (s : State) :
    ∃ t r, runCommand c s = .next t ∧ t.rsp = some r ∧ (r.code = .illegal ↔ ¬ ∃ i, decode c = .ok i) := by
  cases hd : decode c with
  | ok i =>
    obtain ⟨t, v, he, hr⟩ := exec_done i s
    exact ⟨t, ⟨.done, v⟩, (runCommand_ok hd s).trans he, hr, by simp⟩
  | error e =>
    exact ⟨s.setRsp ⟨.illegal, 0⟩, ⟨.illegal, 0⟩, runCommand_error hd s, rfl, by simp⟩

/-- Every step goes on, whatever is presented (R230). -/
theorem step_completes (s : State) : Completes (step s) := by
  match hi : s.inputs with
  | [] => exact ⟨_, step_nil hi⟩
  | .command c :: rest =>
    obtain ⟨t, _, ht, _⟩ := runCommand_response c (s.setInputs rest)
    exact ⟨t, (step_command hi).trans ht⟩
  | .capture _ :: _ => exact ⟨_, step_capture hi⟩
  | .powerOn :: _ => exact ⟨_, step_powerOn hi⟩

/-- Settles O10: every meaning ends with `respond`, and a word without a meaning ends with `illegal`. -/
theorem everyCommandCompletes : Obligations.EveryCommandCompletes := by
  refine ⟨step_completes, fun s c rest hi => ?_, exec_done⟩
  rw [step_command hi]
  exact runCommand_response c (s.setInputs rest)

/-! ### Steps without a command -/

/-- Settles O11: the step is `idle`, or `supplyCapture` with the capture taken. -/
theorem stepWithoutACommandKeepsTheBlock : Obligations.StepWithoutACommandKeepsTheBlock :=
  ⟨fun _ hi => step_nil hi, fun _ _ _ hi => step_capture hi⟩

end Sys2Proof.Machine

namespace Sys2Proof.Machine

/-! ### The time a frame is on the air -/

/-- The time of a run of bits, by the number of its ones (R76, R262). -/
theorem totalDuration_emitRun (c : Config) (b : Nat → Bool) (n : Nat) :
    totalDuration (emitRun c b n) = n * c.tBitMark + ((List.range n).filter b).length * c.tOneSpace
      + (n - ((List.range n).filter b).length) * c.tZeroSpace := by
  induction n with
  | zero => simp [emitRun, totalDuration, durations]
  | succ n ih =>
    have hbit : totalDuration (emitRun c (fun p => b (n + p)) 1) = c.tBitMark + bitSpace c (b n) := by
      simp [emitRun, emitBit, totalDuration, durations, mark, space]
    have hones : ((List.range n).filter b).length ≤ n := by
      simpa using List.length_filter_le b (List.range n)
    rw [emitRun_add, totalDuration_append, ih, hbit, List.range_succ, List.filter_append, List.length_append]
    generalize ((List.range n).filter b).length = ones at hones ⊢
    cases hb : b n with
    | true =>
      simp [hb, bitSpace]
      ring
    | false =>
      have hzeros : n + 1 - ones = n - ones + 1 := Nat.succ_sub hones
      simp [hb, bitSpace, hzeros]
      ring

/-- The two blocks of a frame take the time of their 64 payload bits in one run (R75, R171). -/
theorem totalDuration_blocks (c : Config) (x : Record) :
    totalDuration (emitRun c (payloadBit x) 32) + totalDuration (emitRun c (fun p => payloadBit x (32 + p)) 32) =
      totalDuration (emitRun c (payloadBit x) 64) := by
  rw [← totalDuration_append, ← emitRun_add]

/-- The footer 0b010 is a one and two zeros (R77). -/
theorem totalDuration_footer (c : Config) :
    totalDuration (emitRun c Config.footerVal.getLsbD 3) = 3 * c.tBitMark + c.tOneSpace + 2 * c.tZeroSpace := by
  have hones : ((List.range 3).filter Config.footerVal.getLsbD).length = 1 := by decide
  rw [totalDuration_emitRun, hones, Nat.one_mul]

/-- The time of a frame, by the number of one bits of its record (R262). -/
theorem totalDuration_frame (c : Config) (x : Record) :
    totalDuration (frame c x) = c.tHdrMark + c.tHdrSpace + 69 * c.tBitMark
      + (((List.range 64).filter (payloadBit x)).length + 1) * c.tOneSpace
      + (67 - (((List.range 64).filter (payloadBit x)).length + 1)) * c.tZeroSpace + c.tGap + c.tMsg := by
  have hpair (d e : Duration) : totalDuration [mark d, space e] = d + e := by
    simp [totalDuration, durations, mark, space]
  have hblocks := (totalDuration_blocks c x).trans (totalDuration_emitRun c (payloadBit x) 64)
  have hones : ((List.range 64).filter (payloadBit x)).length ≤ 64 := List.length_filter_le _ (List.range 64)
  rw [frame_eq_runs]
  simp only [totalDuration_append, hpair, totalDuration_footer]
  generalize ((List.range 64).filter (payloadBit x)).length = ones at hblocks hones ⊢
  have hzeros : 67 - (ones + 1) = 64 - ones + 2 := by omega
  rw [hzeros]
  linear_combination hblocks

/-- Settles O40: the formula holds of every frame, and the reset image has 8 one bits. -/
theorem frameOnAirLength : Obligations.FrameOnAirLength :=
  ⟨totalDuration_frame, (totalDuration_frame Config.ref _).trans (by decide)⟩

/-! ### Power-on -/

/-- Settles O12: the step is `powerOn` with the input taken, and RESET writes the same image. -/
theorem powerOnTakesTheResetState : Obligations.PowerOnTakesTheResetState :=
  ⟨fun _ _ hi => ⟨_, _, _, step_powerOn hi⟩, fun cfg => ⟨State.powerUp_record cfg, State.powerUp_tx cfg⟩,
    fun s => ⟨_, exec_of_setter (i := .reset) rfl (by decide) s, rfl⟩⟩

end Sys2Proof.Machine

namespace Sys2Proof

/-! ### The fields a command writes -/

/-- The two fields share no bit of the record (R21). -/
abbrev RecField.Apart {w w' : Nat} (g : RecField w) (f : RecField w') : Prop :=
  g.byte ≠ f.byte ∨ g.lo + w ≤ f.lo ∨ f.lo + w' ≤ g.lo

/-- Whether the command of an opcode writes only fields apart from `g`; RESET and SET_RAW write every field (D26). -/
def Opcode.keepsField {w : Nat} (op : Opcode) (g : RecField w) : Bool :=
  match op with
  | .reset | .setRaw => false
  | .getRaw | .fixup | .send => decide (g.Apart RecField.checksum)
  | .setPower => decide (g.Apart RecField.powerLow) && decide (g.Apart RecField.powerHigh)
  | .setMode =>
    decide (g.Apart RecField.mode) && decide (g.Apart RecField.fan) && decide (g.Apart RecField.temp)
  | .setTemp => decide (g.Apart RecField.temp)
  | .setFan => decide (g.Apart RecField.fan)
  | .setSwingV => decide (g.Apart RecField.swingAuto) && decide (g.Apart RecField.swingPos)
  | .setSleep => decide (g.Apart RecField.sleep)
  | .setTurbo => decide (g.Apart RecField.turbo)
  | .setLight => decide (g.Apart RecField.light)
  | .setXfan => decide (g.Apart RecField.xfan)
  | .nop | .csumCalc | .csumValidRec | .csumValidD | .getPower | .getMode | .getTemp | .getFan | .getSwingAuto
  | .getSwingPos | .getSleep | .getTurbo | .getLight | .getXfan | .encode | .decode | .getDec | .getDecBits => true

/-- Only four opcodes' commands write the temperature code (R255). -/
theorem Opcode.keepsField_temp {op : Opcode} (h : op ∉ ([.reset, .setRaw, .setMode, .setTemp] : List Opcode)) :
    op.keepsField RecField.temp = true := by
  revert h
  cases op <;> decide

/-- Only four opcodes' commands write the fan field (R255). -/
theorem Opcode.keepsField_fan {op : Opcode} (h : op ∉ ([.reset, .setRaw, .setMode, .setFan] : List Opcode)) :
    op.keepsField RecField.fan = true := by
  revert h
  cases op <;> decide

end Sys2Proof

namespace Sys2Proof.Machine

section KeptField

variable {w : Nat} {g : RecField w} (hg : g.lo + w ≤ 8)

include hg

/-- The record a SET_MODE leaves has the same fields apart from the mode, the fan and the temperature code (R112). -/
theorem get_withMode_of_apart (c : Config) (m : Nat) (r : Record) (hmode : g.Apart RecField.mode)
    (hfan : g.Apart RecField.fan) (htemp : g.Apart RecField.temp) : (withMode c m r).get g = r.get g := by
  have hlock : (if locksTemp c m then r.put RecField.temp autoTempCode else r).get g = r.get g := by
    split
    · exact Record.get_put_other _ _ _ _ hg htemp
    · rfl
  rw [withMode, Record.get_put_other _ _ _ _ hg hmode]
  split
  · exact (Record.get_put_other _ _ _ _ hg hfan).trans hlock
  · exact hlock

/-- A command keeps every field apart from those it writes (D26). -/
theorem get_recordAfter_of_keepsField {i : Instr} (c : Config) (r : Record)
    (h : i.opcode.keepsField g = true) : (recordAfter c r i).get g = r.get g := by
  cases i with
  | reset | setRaw => cases h
  | getRaw | fixup | send | setTemp | setFan | setSleep | setTurbo | setLight | setXfan =>
    exact Record.get_put_other _ _ _ _ hg (of_decide_eq_true h)
  | setPower | setSwingV =>
    obtain ⟨h₁, h₂⟩ := Bool.and_eq_true_iff.1 h
    exact (Record.get_put_other _ _ _ _ hg (of_decide_eq_true h₂)).trans
      (Record.get_put_other _ _ _ _ hg (of_decide_eq_true h₁))
  | setMode m =>
    obtain ⟨h', htemp⟩ := Bool.and_eq_true_iff.1 h
    obtain ⟨hmode, hfan⟩ := Bool.and_eq_true_iff.1 h'
    exact get_withMode_of_apart hg c m.toNat r (of_decide_eq_true hmode) (of_decide_eq_true hfan)
      (of_decide_eq_true htemp)
  | nop | csumCalc | csumValidRec | csumValidD | getPower | getMode | getTemp | getFan | getSwingAuto
  | getSwingPos | getSleep | getTurbo | getLight | getXfan | encode | decode | getDec | getDecBits => rfl

end KeptField

/-! ### Commands in a row, then a getter -/

/-- Commands one after another complete, and REC goes through what each makes of it (R59). -/
theorem execAll_next (is : List Instr) (s : State) :
    ∃ t, execAll is s = .next t ∧ t.record = is.foldl (recordAfter s.cfg) s.record := by
  induction is generalizing s with
  | nil => exact ⟨s, rfl, rfl⟩
  | cons i is ih =>
    obtain ⟨t, v, ht, -⟩ := exec_done i s
    obtain ⟨u, hu, hrecord⟩ := ih t
    refine ⟨u, by simp only [execAll, ht, hu], ?_⟩
    rw [hrecord, exec_record ht, exec_cfg ht, List.foldl_cons]

/-- A last command runs from the state the others left (R59). -/
theorem execAll_concat {is : List Instr} {s t : State} (h : execAll is s = .next t) (j : Instr) :
    execAll (is ++ [j]) s = exec j t := by
  induction is generalizing s with
  | nil =>
    cases h
    obtain ⟨u, v, hu, -⟩ := exec_done j t
    simp only [List.nil_append, execAll, hu]
  | cons i is ih =>
    obtain ⟨u, v, hu, -⟩ := exec_done i s
    simp only [execAll, hu] at h
    simp only [List.cons_append, execAll, hu, ih h]

/-- A last command that answers `value` of REC answers it of the record the others leave. -/
theorem execAll_query {j : Instr} {value : Record → DWord} (hj : ∀ t, exec j t = respond (value t.record) t)
    (is : List Instr) (s : State) {v : DWord} (hv : value (is.foldl (recordAfter s.cfg) s.record) = v) :
    ∃ u, execAll (is ++ [j]) s = .next u ∧ u.rsp = some ⟨.done, v⟩ := by
  obtain ⟨t, ht, hrecord⟩ := execAll_next is s
  refine ⟨t.setRsp ⟨.done, v⟩, ?_, rfl⟩
  rw [execAll_concat ht, hj, hrecord, hv]
  rfl

/-- The temperature a record holds, as GET_TEMP answers it (R115). -/
def storedTemp (r : Record) : Nat := (r.get RecField.temp).toNat + Config.tempOffset

/-- GET_TEMP answers the stored temperature (R115). -/
theorem exec_getTemp (s : State) : exec .getTemp s = respond (BitVec.ofNat 64 (storedTemp s.record)) s := rfl

/-- GET_FAN answers the stored fan speed (R117). -/
theorem exec_getFan (s : State) : exec .getFan s = respond (zext (s.record.get RecField.fan)) s := rfl

/-! ### What the lock setters leave in the locked fields -/

section Locks

variable (c : Config) (r : Record)

/-- SET_TEMP stores 25 when the stored mode is Auto, and the clamped operand otherwise (R114). -/
theorem storedTemp_setTemp (t : Byte) : storedTemp (recordAfter c r (.setTemp t)) =
    if r.get RecField.mode = 0#3 then 25 else min (max t.toNat 16) 30 := by
  have hget := Record.get_put_same r RecField.temp (tempCode r t) (by decide)
  exact (congrArg (fun v => v.toNat + 16) hget).trans (tempCode_toNat r t)

/-- SET_MODE stores 25 where it locks the temperature, and keeps the temperature otherwise (R112). -/
theorem storedTemp_setMode (m : Byte) : storedTemp (recordAfter c r (.setMode m)) =
    if locksTemp c m.toNat then 25 else storedTemp r := by
  have htemp : storedTemp (recordAfter c r (.setMode m)) =
      (if locksTemp c m.toNat then autoTempCode else r.get RecField.temp).toNat + 16 :=
    congrArg (fun v => v.toNat + 16) (get_temp_withMode c m.toNat r)
  exact htemp.trans (apply_ite (fun v : BitVec 4 => v.toNat + 16) _ _ _)

/-- Every command but the four writers of the temperature code keeps it (R255). -/
theorem get_temp_recordAfter {i : Instr} (h : i.opcode ∉ ([.reset, .setRaw, .setMode, .setTemp] : List Opcode)) :
    (recordAfter c r i).get RecField.temp = r.get RecField.temp :=
  get_recordAfter_of_keepsField (by decide) c r (Opcode.keepsField_temp h)

/-- Every command but the four writers of the fan field keeps it (R255). -/
theorem get_fan_recordAfter {i : Instr} (h : i.opcode ∉ ([.reset, .setRaw, .setMode, .setFan] : List Opcode)) :
    (recordAfter c r i).get RecField.fan = r.get RecField.fan :=
  get_recordAfter_of_keepsField (by decide) c r (Opcode.keepsField_fan h)

/-- SET_MODE 0 stores mode Auto and 25 degrees (R112). -/
theorem setMode_auto : (recordAfter c r (.setMode 0)).get RecField.mode = 0#3 ∧
    storedTemp (recordAfter c r (.setMode 0)) = 25 :=
  ⟨get_mode_withMode c 0 r, storedTemp_setMode c r 0⟩

/-- SET_MODE 1 stores mode Cool and keeps the temperature (R112). -/
theorem setMode_cool : (recordAfter c r (.setMode 1)).get RecField.mode = 1#3 ∧
    storedTemp (recordAfter c r (.setMode 1)) = storedTemp r :=
  ⟨get_mode_withMode c 1 r, storedTemp_setMode c r 1⟩

/-- SET_TEMP after SET_MODE 1 stores the clamped operand (R112, R114). -/
theorem storedTemp_setTemp_cool (t : Byte) :
    storedTemp (recordAfter c (recordAfter c r (.setMode 1)) (.setTemp t)) = min (max t.toNat 16) 30 := by
  rw [storedTemp_setTemp, (setMode_cool c r).1, if_neg (by decide)]

/-- SET_MODE 9 is a substituted Auto, which keeps the temperature where SUBST_AUTO_LOCKS_TEMP is false (R112). -/
theorem storedTemp_setMode_unknown (h : c.substAutoLocksTemp = false) :
    storedTemp (recordAfter c r (.setMode 9)) = storedTemp r := by
  have hfree : ¬ locksTemp c (9#8).toNat = true := by
    rw [locksTemp_iff, h]
    decide
  rw [storedTemp_setMode]
  exact if_neg hfree

/-- SET_FAN keeps the temperature (R116). -/
theorem storedTemp_setFan (f : Byte) : storedTemp (recordAfter c r (.setFan f)) = storedTemp r :=
  congrArg (fun v => v.toNat + 16) (get_temp_recordAfter c r (i := .setFan f) (by simp [Instr.opcode]))

/-- SET_RAW stores mode Dry with fan 3 as it stands (R102, R255). -/
theorem get_fan_setRaw_dry : (recordAfter c r (.setRaw 0x32)).get RecField.fan = 3#2 :=
  (by decide : (unpack 0x32).get RecField.fan = 3#2)

end Locks

/-- Settles O28: the five consequences from what each setter leaves in the locked field, the rest from the commands
that keep the field. -/
theorem locksActWhenASetterRuns : Obligations.LocksActWhenASetterRuns := by
  intro t f v s
  have hgetTemp (is : List Instr) {d : Nat} (h : storedTemp (is.foldl (recordAfter s.cfg) s.record) = d) :=
    execAll_query (value := fun r => .ofNat 64 (storedTemp r)) exec_getTemp is s (congrArg (BitVec.ofNat 64) h)
  have hgetFan (is : List Instr) {d : BitVec 2} (h : (is.foldl (recordAfter s.cfg) s.record).get RecField.fan = d) :=
    execAll_query (value := fun r => zext (r.get RecField.fan)) exec_getFan is s (congrArg zext h)
  refine ⟨hgetTemp [.setTemp t, .setMode 0] (setMode_auto _ _).2, hgetTemp [.setMode 0, .setTemp t] ?_,
    hgetTemp [.setMode 0, .setMode 1] ((setMode_cool _ _).2.trans (setMode_auto _ _).2),
    hgetFan [.setFan f, .setMode 2] (get_fan_withMode _ 2 _),
    hgetTemp [.setMode 1, .setTemp t] (storedTemp_setTemp_cool _ _ t), fun hsubst => ?_,
    hgetFan (d := 3#2) [.setRaw 0x32, .setTemp t, .setTurbo v] ?_, fun i u hexec => ?_⟩
  · exact (storedTemp_setTemp s.cfg _ t).trans (if_pos (setMode_auto _ _).1)
  · refine hgetTemp [.setMode 1, .setTemp 40, .setMode 9, .setFan f] ?_
    simp only [List.foldl_cons, List.foldl_nil]
    rw [storedTemp_setFan, storedTemp_setMode_unknown _ _ hsubst, storedTemp_setTemp_cool]
    decide
  · simp only [List.foldl_cons, List.foldl_nil]
    rw [get_fan_recordAfter (i := .setTurbo v) _ _ (by simp [Instr.opcode]),
      get_fan_recordAfter (i := .setTemp t) _ _ (by simp [Instr.opcode])]
    exact get_fan_setRaw_dry s.cfg s.record
  · rw [exec_record hexec]
    exact ⟨get_temp_recordAfter _ _, get_fan_recordAfter _ _⟩

end Sys2Proof.Machine
